-- ==== Sys2Proof/Word.lean ====
section
/-! DEFINITION. The plain types of the core: bytes, timestamps, colours, channels and the values of the sequencer
register PHASE. Rules R13, R21 to R26, R72, R84. -/

namespace Sys2Proof

/-- An unsigned byte, the `u8` of rule R13. -/
abbrev U8 := BitVec 8

/-- A timestamp of `TS_WIDTH` = 64 bits (rules R9, R23, R40). -/
abbrev Stamp := BitVec 64

/-- Format `RGB` (rule R72): three independent unsigned bytes. -/
structure RGB where
  r : U8
  g : U8
  b : U8
  deriving DecidableEq, Repr

/-- The three colour bytes of a pixel, as `CH_ORDER` names them (rules R9, R53). -/
inductive Channel where
  | red
  | green
  | blue
  deriving DecidableEq, Repr

/-- The byte of a colour that a channel names. -/
def RGB.channel (c : RGB) : Channel → U8
  | .red => c.r
  | .green => c.g
  | .blue => c.b

/-- The value of the sequencer register PHASE: the operation that runs next (rule R26). Its codes stand in Decode. -/
inductive Phase where
  | init
  | capture
  | convert
  | encode
  | transmit
  | advance
  | pace
  | halt
  deriving DecidableEq, Repr

end Sys2Proof
end

