-- ==== Sys2Proof/Config.lean ====
section
/-! DEFINITION. The build of the core: the parameters of rule R9 with their defaults, the parameter sets the spec
gives a machine for, and the free values (rules R9 to R11, R56, R131, R132; log 2, 19, 20, 23, 25, 29). -/

namespace Sys2Proof

/-- The implementation parameters of rule R9. `TS_WIDTH` is the type `Stamp` and `WIDE` is `Nat` (log 20). -/
structure Config where
  /-- `NPIX`, pixels per frame -/
  npix : Nat
  /-- `SAT`, the fixed saturation -/
  sat : U8
  /-- `VAL`, the fixed value -/
  val : U8
  /-- `HUE_STEP`, the hue increment per frame -/
  hueStep : U8
  /-- `HUE_INIT`, the hue after reset -/
  hueInit : U8
  /-- `FRAME_PERIOD_TICKS` -/
  framePeriodTicks : Nat
  /-- `TICK_HZ` -/
  tickHz : Nat
  /-- `CH_ORDER`, the order of the colour bytes on the wire -/
  chOrder : List Channel
  /-- `N_CELL`, bus cells per protocol bit -/
  nCell : Nat
  /-- `PAT0`, first cell first -/
  pat0 : List Bool
  /-- `PAT1`, first cell first -/
  pat1 : List Bool
  /-- `F_BUS_HZ` -/
  fBusHz : Nat
  /-- `RESET_CELLS`, the length of the gap -/
  resetCells : Nat
  /-- whether the serial bus moves whole bytes (rule R56) -/
  byteBus : Bool
  /-- whether the diagnostic output is built (rule R31, U20) -/
  diagPresent : Bool
  /-- `T_SPLIT` (rule R89, D32) is `tSplitNum / tSplitDen` cell times -/
  tSplitNum : Nat
  tSplitDen : Nat
  deriving DecidableEq, Repr

/-- The defaults of rule R9 (the spec's decisions D2 to D13, D15, D21, D32; log 25). -/
def Config.default : Config where
  npix := 1
  sat := 255
  val := 100
  hueStep := 2
  hueInit := 0
  framePeriodTicks := 20000
  tickHz := 1000000
  chOrder := [.green, .red, .blue]
  nCell := 4
  pat0 := [true, false, false, false]
  pat1 := [true, true, true, false]
  fBusHz := 3000000
  resetCells := 1120
  byteBus := true
  diagPresent := true
  tSplitNum := 2
  tSplitDen := 1

/-- `FRAME_CELLS = NPIX*24*N_CELL + RESET_CELLS` (rules R9, R75). -/
def Config.frameCells (c : Config) : Nat :=
  c.npix * 24 * c.nCell + c.resetCells

/-- The high cells of a pattern: `k0` and `k1` of rule R131. -/
def Config.highCells (p : List Bool) : Nat :=
  p.count true

/-- Rule R131 (a) and (b) for one pattern: `N_CELL` cells, a run of `k` ones and then zeros, `1 <= k <= N_CELL - 1`. -/
def Config.patternOk (c : Config) (p : List Bool) : Bool :=
  p == List.replicate (Config.highCells p) true ++ List.replicate (c.nCell - Config.highCells p) false
    && decide (1 ≤ Config.highCells p) && decide (Config.highCells p < c.nCell)

/-- `CH_ORDER` names each of the three colour bytes once (rules R9, R53). -/
def Config.chOrderOk (c : Config) : Bool :=
  decide (c.chOrder.length = 3) && decide c.chOrder.Nodup

/-- The parameter sets the spec gives a machine for: rule R131 (a) to (c), `CH_ORDER` an order of the three bytes, and
rule R56 on a byte-oriented bus. Conditions (d) and (e) of rule R131 are nothing the model can check. -/
def Config.ok (c : Config) : Bool :=
  decide (2 ≤ c.nCell) && c.patternOk c.pat0 && c.patternOk c.pat1
    && decide (Config.highCells c.pat0 < Config.highCells c.pat1) && c.chOrderOk
    && (!c.byteBus || decide (c.frameCells % 8 = 0))

/-- `T_SPLIT` lies strictly between the high times of a 0 and of a 1 (rule R89: "strictly between 1 and 3 cell times"
in the default patterns). -/
def Config.tSplitOk (c : Config) : Bool :=
  decide (Config.highCells c.pat0 * c.tSplitDen < c.tSplitNum)
    && decide (c.tSplitNum < Config.highCells c.pat1 * c.tSplitDen)

/-- A byte register that holds no value (rules R22, R45): nothing is known of it. DESIGN CHOICE, log 2. -/
opaque Config.freeByte : Nat → U8

/-- A timestamp register that holds no value (rules R23, R45): nothing is known of it. DESIGN CHOICE, log 2. -/
opaque Config.freeStamp : Nat → Stamp

end Sys2Proof
end

