-- ==== Sys2Proof/Machine/State.lean ====
section
/-! DEFINITION. The state of the model: the core, which is the ten items of rule R20 with its outputs and trace; the
build; and the environment, its pins and their script (rules R20 to R33, R40 to R46; log 1 to 10). -/

namespace Sys2Proof.Machine

/-- Why the model stops. No run from a state of the invariants of Safety reaches one (rule R193). -/
inductive Fault where
  /-- Raised by TRANSMIT, TXERR.OK when they read a frame-buffer cell that nothing has written since reset: U10 of
  93_implementation_defined.md, "a read would be a `fault` of the model". Safe. Log 3. -/
  | cellHasNoValue
  /-- Raised by TRANSMIT when TXIDX is past the frame, and by the SYM and BUSBYTE rows when a group does not fit before
  the end of the frame: there is no such cell (rules R50, R145). Safe. Log 14, 22. -/
  | cellIndexOutOfRange
  deriving DecidableEq, Repr

/-- What the model gives no meaning to. -/
inductive Refusal where
  /-- Raised by `exec` for an instruction that has no meaning yet. Safe. -/
  | notModelled (mnemonic : String)
  /-- Raised by the rows FAULT.RESERVED2 and FAULT.RESERVED3: "reserved, never produced" (rule R86, U11). Safe. -/
  | reservedFaultCode
  /-- Raised by `step` for a parameter set that breaks rule R131 (a) to (c), the order of the channels, or rule R56
  (U2, U17: "refuse the parameter set"). Safe. Log 19. -/
  | parameterSet
  /-- Raised by `step` for `NPIX` other than 1, for which the spec defines no scheduler (rule R132, U15). Safe. Log 19. -/
  | schedulerNeedsOnePixel
  deriving DecidableEq, Repr

/-- FAULT_CODE: two values, the reserved codes are never produced (rules R29, R86, R88 (d)). -/
inductive FaultCode where
  | none
  | initFailure
  deriving DecidableEq, Repr

/-- The 2-bit code on the output `fault_code` (rule R86). -/
def FaultCode.code : FaultCode → BitVec 2
  | .none => 0b00
  | .initFailure => 0b01

/-- The events of the trace (rules R44, R222). -/
inductive Event where
  | diag (hue : U8)
  | frameSent (cells : List Bool) (ts : Stamp)
  | frameDropped (ts : Stamp)
  | fatal (code : FaultCode)
  | frameAborted (cells : List Bool)
  deriving DecidableEq, Repr

/-- The levels of the input pins at one rising edge of `clk` (rule R46). -/
structure Pins where
  rst : Bool
  now : Stamp
  busInitDone : Bool
  busInitOk : Bool
  busReject : Bool
  cellEn : Bool
  deriving DecidableEq, Repr

/-- Every pin low: the environment of `State.reset` (DESIGN CHOICE, log 5). -/
def Pins.quiet : Pins where
  rst := false
  now := 0
  busInitDone := false
  busInitOk := false
  busReject := false
  cellEn := false

/-- The frame buffer: one entry for each cell that holds a value, the key the cell index of rule R50, the byte 1 for a
high cell and 0 for a low one (log 26). A cell that is not listed holds no value (rule R45; log 3). -/
abbrev Memory := List Host.Cell

/-- The canonical form: cell indexes strictly rising, and each byte 0 or 1. -/
abbrev Memory.wf (m : Memory) : Prop :=
  m.Pairwise (fun a b => a.1 < b.1) ∧ ∀ e ∈ m, e.2 = 0 ∨ e.2 = 1

/-- The ten items of rule R20. -/
structure Regs where
  /-- HUE (rule R21) -/
  hue : U8
  /-- R, G, B (rule R22) -/
  r : U8
  g : U8
  b : U8
  /-- TSTART (rule R23) -/
  tstart : Stamp
  /-- FRAMEBUF (rules R24, R50) -/
  framebuf : Memory
  /-- TXIDX (rule R25) -/
  txidx : Nat
  /-- PHASE (rule R26) -/
  phase : Phase
  /-- TXERR (rule R28) -/
  txerr : Bool
  /-- FATAL (rule R29) -/
  fatal : Bool
  /-- FAULT_CODE (rule R29) -/
  faultCode : FaultCode
  /-- LINE, the output `mosi` (rule R30) -/
  line : Bool
  deriving DecidableEq, Repr

/-- The colour in R, G, B. -/
def Regs.rgb (x : Regs) : RGB :=
  ⟨x.r, x.g, x.b⟩

/-- The values of rule R45. R, G, B and TSTART hold no value: the free values of the given reset (log 2). -/
def Regs.afterReset (build : Config) (epoch : Nat) : Regs where
  hue := build.hueInit
  r := Config.freeByte (3 * epoch)
  g := Config.freeByte (3 * epoch + 1)
  b := Config.freeByte (3 * epoch + 2)
  tstart := Config.freeStamp epoch
  framebuf := []
  txidx := 0
  phase := .init
  txerr := false
  fatal := false
  faultCode := .none
  line := false

/-- The core: the ten items of rule R20, and what it shows. No operation reads `sclk`, `mosi`, `diag` or `trace`. -/
structure CoreState where
  /-- the whole state of the core (rule R20) -/
  regs : Regs
  /-- the levels of the output `sclk` during the last step in time order (rules R30, R145; log 10) -/
  sclk : List Bool
  /-- the cells driven on the output `mosi` during the last step in time order (rules R30, R145; log 10) -/
  mosi : List Bool
  /-- `diag_hue` while `diag_valid` is 1, nothing while it is 0 (rule R31; log 9) -/
  diag : Option U8
  /-- TRACE, oldest event first (rule R44) -/
  trace : List Event
  deriving DecidableEq, Repr

/-- The environment: everything outside the core that answers it (rules R18, R19). Only its own turn, `Env.turn`, changes
it. -/
structure Env where
  /-- the input pins at the coming step (rules R40 to R43, R46; log 4) -/
  pins : Pins
  /-- the input pins at the steps after it, the next one first (rule R91; log 4) -/
  script : List Pins
  /-- the bus has accepted the transfer in progress: its one answer for this entry to TRANSMIT (rules R42, R143; log 6) -/
  granted : Bool
  /-- the model's own: the resets given, the argument of the free values (log 2) -/
  epoch : Nat
  deriving DecidableEq, Repr

/-- The closed system the host's step works on: the build, which the core's step takes as an argument (rule R32;
`coreStep`), the core, and the environment (log 1). -/
structure State where
  /-- the parameters of rule R9 (rules R11, R32) -/
  build : Config
  /-- the core (rule R20) -/
  core : CoreState
  /-- the environment -/
  env : Env
  deriving DecidableEq, Repr

/-- The core right after the reset of the given number, with the trace that reset leaves (rules R45, R220, R222). -/
def CoreState.afterReset (build : Config) (epoch : Nat) (trace : List Event) : CoreState where
  regs := Regs.afterReset build epoch
  sclk := [false]
  mosi := []
  diag := none
  trace := trace

/-- A quiet environment with nothing to come (DESIGN CHOICE, log 5). -/
def Env.quiet : Env where
  pins := Pins.quiet
  script := []
  granted := false
  epoch := 0

/-- The default build right after reset (rules R20, R45, R220), with a quiet environment (log 5). -/
def State.reset : State where
  build := Config.default
  core := CoreState.afterReset Config.default 0 []
  env := Env.quiet

end Sys2Proof.Machine
end

