-- ==== Sys2Proof/Machine/Flags.lean ====
section
/-! DEFINITION. The flags TXERR, FATAL and FAULT_CODE and the one comparison of the core, the elapsed time of PACE
(rules R28, R29, R168). There are no arithmetic flags (rule R28). -/

namespace Sys2Proof.Machine

/-- `TXERR <- v` (rule R28). -/
def setTxerr (v : Bool) (c : CoreState) : CoreState :=
  { c with regs.txerr := v }

/-- `FATAL <- 1; FAULT_CODE <- code` (rules R29, R191). -/
def setFatal (code : FaultCode) (c : CoreState) : CoreState :=
  { c with regs.fatal := true, regs.faultCode := code }

/-- `elapsed = (n - TSTART) mod 2^64` (rule R168). -/
def elapsed (n tstart : Stamp) : Nat :=
  (n - tstart).toNat

/-- `elapsed >= FRAME_PERIOD_TICKS` (rule R168, D34). -/
def periodReached (build : Config) (n tstart : Stamp) : Bool :=
  decide (build.framePeriodTicks ≤ elapsed n tstart)

end Sys2Proof.Machine
end

