-- ==== Sys2Proof/Machine/Operands.lean ====
section
/-! DEFINITION. What an operation reads from outside the core: the environment's primitives of rule R15, read from the
pins of rule R46 (rules R40 to R43). -/

namespace Sys2Proof.Machine

/-- The answers of `BusInitVerdict()` (rule R41). -/
inductive Verdict where
  | pending
  | ok
  | fail
  deriving DecidableEq, Repr

/-- The answers of `BusAccept()` (rule R42). -/
inductive BusAnswer where
  | accept
  | reject
  deriving DecidableEq, Repr

/-- `ClockRead()` (rule R40): a read has no side effect. -/
def clockRead (e : Env) : Stamp :=
  e.pins.now

/-- `BusInitVerdict()` (rule R41). -/
def busInitVerdict (e : Env) : Verdict :=
  if e.pins.busInitDone then (if e.pins.busInitOk then .ok else .fail) else .pending

/-- `BusAccept()` (rules R42, R143): the pin, until the bus has accepted the transfer in progress; its answer then stands,
so that the pin is read once on each entry to TRANSMIT (log 6). -/
def busAccept (e : Env) : BusAnswer :=
  if e.granted then .accept else if e.pins.busReject then .reject else .accept

/-- One cell pulse arrives (rule R43). -/
def cellPulse (e : Env) : Bool :=
  e.pins.cellEn

end Sys2Proof.Machine
end

