-- ==== Sys2Proof/Machine/Ops.lean ====
section
/-! DEFINITION. The shared operations: the frame buffer's MemRead and MemWrite, the trace, the two failures, reset, the
environment's turn, and the builds the model refuses (rules R15, R44, R50 to R52, R190 to R192, R220, R222). -/

namespace Sys2Proof.Machine

/-- A cell's level as the byte of its entry (log 26). -/
def levelByte (c : Bool) : BitVec 8 :=
  if c then 1 else 0

/-- The value of one cell; none where nothing has written it since reset (rules R45, R50; log 3). -/
def Memory.readCell : Memory → Nat → Option Bool
  | [], _ => none
  | e :: m, i => if e.1 = i then some (e.2 != 0) else Memory.readCell m i

/-- `MemRead(i, n)`: cells `i .. i+n-1` in time order (rule R52); none if one of them holds no value. -/
def Memory.read (m : Memory) : Nat → Nat → Option (List Bool)
  | _, 0 => some []
  | i, n + 1 =>
    match Memory.readCell m i, Memory.read m (i + 1) n with
    | some c, some cs => some (c :: cs)
    | _, _ => none

/-- The entries of a cell list laid from cell `i` on. -/
def Memory.entries : Nat → List Bool → Memory
  | _, [] => []
  | i, c :: cs => (i, levelByte c) :: Memory.entries (i + 1) cs

/-- `MemWrite(i, n, L)` with `n` the length of `L` (rule R51): cells `i .. i+n-1` take the values of `L`. -/
def Memory.write (m : Memory) (i : Nat) (cells : List Bool) : Memory :=
  m.filter (fun e => decide (e.1 < i)) ++ Memory.entries i cells
    ++ m.filter (fun e => decide (i + cells.length ≤ e.1))

/-- `emit(e)`: append to the trace (rules R15, R44). -/
def emit (e : Event) (c : CoreState) : CoreState :=
  { c with trace := c.trace ++ [e] }

/-- The two failures of rule R190; there is no third (rule R193). -/
inductive Failure where
  | initFailure
  | transportError
  deriving DecidableEq, Repr

/-- `raise <Failure>()`, the core's counterpart of taking an exception (rules R15, R191, R192, R197). Nothing is saved
and there is no return operation (rules R197, R198). -/
def raise (f : Failure) (c : CoreState) : CoreState :=
  match f with
  | .initFailure =>
    emit (.fatal .initFailure) { setFatal .initFailure c with regs.phase := .halt }
  | .transportError =>
    emit (.frameDropped c.regs.tstart) { setTxerr true c with regs.phase := .advance }

/-- Reset falls in the middle of a transfer (rule R222). -/
def midTransfer (build : Config) (c : CoreState) : Bool :=
  decide (c.regs.phase = .transmit) && decide (0 < c.regs.txidx) && decide (c.regs.txidx < build.frameCells)

/-- The trace after a reset: empty (rule R45), or the one `FrameAborted` of the transfer that the reset cut, with the
cells driven (rule R222, D28, D33; log 8). -/
def resetTrace (build : Config) (c : CoreState) : List Event :=
  if midTransfer build c then ((c.regs.framebuf.read 0 c.regs.txidx).map Event.frameAborted).toList else []

/-- Reset (rules R45, R220): whatever PHASE was, the state of rule R45. -/
def applyReset (build : Config) (e : Env) (c : CoreState) : CoreState :=
  CoreState.afterReset build (e.epoch + 1) (resetTrace build c)

/-- At the start of an operation `sclk` rests low, no cell of this step is driven yet and `diag_valid` is 0 again: CONVERT
raises it for one operation only (rules R30, R31; log 10, 11). -/
def strobesLow (c : CoreState) : CoreState :=
  { c with sclk := [false], mosi := [], diag := none }

/-- The environment's turn after a step that took PHASE from `before` to `after`: the pins take their next levels, or keep
the ones they have when the script is at its end (log 4); the bus has accepted the transfer in progress exactly when the
core was in TRANSMIT and stays there (log 6); a reset is counted (log 2). -/
def Env.turn (before after : Phase) (e : Env) : Env where
  pins := e.script.headD e.pins
  script := e.script.tail
  granted := decide (before = .transmit) && decide (after = .transmit)
  epoch := if e.pins.rst then e.epoch + 1 else e.epoch

/-- The outcome of an operation on the core, as an outcome of the closed system: an operation changes neither the build nor
the environment (rules R11, R32). -/
def State.run (s : State) : Host.Outcome CoreState Fault Refusal → Host.Outcome State Fault Refusal
  | .next c => .next { s with core := c }
  | .fault r => .fault r
  | .refused r => .refused r

/-- The core's part of an outcome of the closed system. -/
def coreOutcome : Host.Outcome State Fault Refusal → Host.Outcome CoreState Fault Refusal
  | .next s => .next s.core
  | .fault r => .fault r
  | .refused r => .refused r

/-- The outcome of the core's step, with the environment's turn after it: no step changes the build (rule R11). -/
def State.afterCore (s : State) : Host.Outcome CoreState Fault Refusal → Host.Outcome State Fault Refusal
  | .next c => .next { s with core := c, env := s.env.turn s.core.regs.phase c.regs.phase }
  | .fault r => .fault r
  | .refused r => .refused r

/-- Why the model has no machine for a build: U2 and U17 (rules R56, R131), U15 (rule R132). Log 19. -/
def buildRefusal (c : Config) : Option Refusal :=
  if c.ok then (if c.npix = 1 then none else some .schedulerNeedsOnePixel) else some .parameterSet

end Sys2Proof.Machine
end

