-- ==== Sys2Proof/Machine/ProtocolEncoder.lean ====
section
/-! DEFINITION. The Protocol Encoder: from colours to cells, its two inverses, the byte view, and the operation ENCODE
(rules R50, R73 to R77, R89, R120 to R133, R165). -/

namespace Sys2Proof.Machine

/-- The bits of a byte, most significant first (rule R53 (c)). -/
def byteBits (c : U8) : List Bool :=
  [c.getLsbD 7, c.getLsbD 6, c.getLsbD 5, c.getLsbD 4, c.getLsbD 3, c.getLsbD 2, c.getLsbD 1, c.getLsbD 0]

/-- The byte of eight bits, most significant first. -/
def byteOfBits (bits : List Bool) : U8 :=
  BitVec.ofNat 8 (bits.foldl (fun n b => 2 * n + b.toNat) 0)

/-- `pixword(c)`: the protocol bits of one pixel in wire order (rules R73, R123). -/
def pixWord (build : Config) (c : RGB) : List Bool :=
  build.chOrder.flatMap (fun ch => byteBits (c.channel ch))

/-- `sym(b)`: `PAT0` or `PAT1` (rules R74, R124). -/
def sym (build : Config) (b : Bool) : List Bool :=
  if b then build.pat1 else build.pat0

/-- `pixcells(c)` (rule R125). -/
def pixCells (build : Config) (c : RGB) : List Bool :=
  (pixWord build c).flatMap (sym build)

/-- `gap = rep(0, RESET_CELLS)` (rule R126). -/
def gap (build : Config) : List Bool :=
  List.replicate build.resetCells false

/-- `encode(pixels)` (rule R127), for any number of pixels (rule R132). -/
def encodeFrame (build : Config) (pixels : List RGB) : List Bool :=
  pixels.flatMap (pixCells build) ++ gap build

/-- The cell-domain decoder's verdict on one group: a protocol bit, or `invalid` (rule R89, U12). -/
def decodeGroup (build : Config) (cells : List Bool) : Option Bool :=
  if cells = build.pat0 then some false else if cells = build.pat1 then some true else none

/-- The verdicts on the first `n` groups of `N_CELL` cells (rule R89). -/
def decodeGroups (build : Config) : Nat → List Bool → List (Option Bool)
  | 0, _ => []
  | n + 1, cells => decodeGroup build (cells.take build.nCell) :: decodeGroups build n (cells.drop build.nCell)

/-- All verdicts, if none is `invalid`. -/
def allBits : List (Option Bool) → Option (List Bool)
  | [] => some []
  | none :: _ => none
  | some b :: vs => (allBits vs).map (b :: ·)

/-- The protocol bits of the pixel part of a frame of `n` pixels, if every group is a symbol and the rest is a gap of
`RESET_CELLS` low cells (rule R89). -/
def decodeBits (build : Config) (n : Nat) (cells : List Bool) : Option (List Bool) :=
  if cells.drop (n * 24 * build.nCell) = gap build then allBits (decodeGroups build (n * 24) cells) else none

/-- The colour byte of a channel among the bytes that stand in wire order. -/
def channelByte : List Channel → List U8 → Channel → Option U8
  | ch :: chs, c :: cs, want => if ch = want then some c else channelByte chs cs want
  | _, _, _ => none

/-- A pixel from its 24 protocol bits: regroup by eight and undo `CH_ORDER` (rule R133). -/
def pixelOfBits (build : Config) (bits : List Bool) : Option RGB :=
  let bytes := [byteOfBits (bits.take 8), byteOfBits ((bits.drop 8).take 8), byteOfBits ((bits.drop 16).take 8)]
  match channelByte build.chOrder bytes .red, channelByte build.chOrder bytes .green,
    channelByte build.chOrder bytes .blue with
  | some r, some g, some b => some ⟨r, g, b⟩
  | _, _, _ => none

/-- `n` pixels from their protocol bits. -/
def pixelsOfBits (build : Config) : Nat → List Bool → Option (List RGB)
  | 0, _ => some []
  | n + 1, bits =>
    match pixelOfBits build (bits.take 24), pixelsOfBits build n (bits.drop 24) with
    | some c, some cs => some (c :: cs)
    | _, _ => none

/-- The cell-domain decoder of rule R89 with the regrouping of rule R133. -/
def decodeFrame (build : Config) (n : Nat) (cells : List Bool) : Option (List RGB) :=
  match decodeBits build n cells with
  | some bits => pixelsOfBits build n bits
  | none => none

/-- The high runs of a waveform, each with the low run that follows it, in cell times (rule R89); `hi` and `lo` are the
lengths of the run in progress. -/
def runsFrom (hi lo : Nat) : List Bool → List (Nat × Nat)
  | [] => if hi = 0 then [] else [(hi, lo)]
  | true :: cs => if lo = 0 then runsFrom (hi + 1) 0 cs else (hi, lo) :: runsFrom 1 0 cs
  | false :: cs => runsFrom hi (if hi = 0 then 0 else lo + 1) cs

/-- The time-domain decoder of rule R89: a high run longer than `T_SPLIT` is a 1, a shorter one a 0, and a low run of
at least `latch` cell times ends the frame (log 23). -/
def decodeRuns (build : Config) (latch : Nat) : List (Nat × Nat) → List Bool
  | [] => []
  | (hi, lo) :: rest =>
    decide (build.tSplitNum < hi * build.tSplitDen) :: (if latch ≤ lo then [] else decodeRuns build latch rest)

/-- The byte view of a cell list: eight cells to a byte, the first in bit 7 (rule R50). -/
def byteView : Nat → List Bool → List U8
  | 0, _ => []
  | n + 1, cells => byteOfBits (cells.take 8) :: byteView n (cells.drop 8)

/-- `BB(a, b) = 0x88 + 0x60*a + 0x06*b` (rule R77). The bytes are the literal ones of rules R76 and R77 in every build, also
where `PAT0`, `PAT1`, `N_CELL` are not `1000`, `1110`, 4 and the byte is not the patterns of its two bits: the spec gives
no byte there (DESIGN CHOICE, log 30). -/
def busByte (a b : Bool) : U8 :=
  BitVec.ofNat 8 (0x88 + 0x60 * a.toNat + 0x06 * b.toNat)

/-- The four bus bytes of a colour byte (rule R77). -/
def expandByte (c : U8) : List U8 :=
  [busByte (c.getLsbD 7) (c.getLsbD 6), busByte (c.getLsbD 5) (c.getLsbD 4),
    busByte (c.getLsbD 3) (c.getLsbD 2), busByte (c.getLsbD 1) (c.getLsbD 0)]

/-- ENCODE (rule R165): `MemWrite(0, FRAME_CELLS, encode([(R, G, B)])); PHASE <- TRANSMIT`. -/
def execEncode (s : State) : Host.Outcome State Fault Refusal :=
  s.run (.next { s.core with
    regs.framebuf := s.core.regs.framebuf.write 0 (encodeFrame s.build [s.core.regs.rgb])
    regs.phase := .transmit })

end Sys2Proof.Machine
end

