-- ==== Sys2Proof/Machine/BusTransport.lean ====
section
/-! DEFINITION. The Bus Transport: TRANSMIT cell by cell, the codes of what it drives (SYM, BUSBYTE) and of how it ends
(TXERR) (rules R74, R76, R124, R126, R140 to R152, R166, R192; log 6, 7, 12, 14, 22, 30). -/

namespace Sys2Proof.Machine

/-- One cell on the line (rule R145): the level, one `sclk` pulse (low, high, low), `TXIDX <- TXIDX + 1`, stay in
TRANSMIT. -/
def driveCell (x : Bool) (c : CoreState) : CoreState :=
  { c with
    regs.line := x
    regs.txidx := c.regs.txidx + 1
    regs.phase := .transmit
    sclk := c.sclk ++ [true, false]
    mosi := c.mosi ++ [x] }

/-- Cells on the line one after the other. -/
def driveCells (cells : List Bool) (c : CoreState) : CoreState :=
  cells.foldl (fun d x => driveCell x d) c

/-- Completion (rule R146): `LINE <- 0; TXIDX <- 0; TXERR <- 0; emit(FrameSent(MemRead(0, FRAME_CELLS), TSTART));
PHASE <- ADVANCE`. -/
def completeTransfer (build : Config) (c : CoreState) : Host.Outcome CoreState Fault Refusal :=
  match c.regs.framebuf.read 0 build.frameCells with
  | some cells =>
    .next (emit (.frameSent cells c.regs.tstart)
      { setTxerr false c with regs.line := false, regs.txidx := 0, regs.phase := .advance })
  | none => .fault .cellHasNoValue

/-- One step of an accepted transfer (rules R145, R146, R148): with a pulse the next cell, without one nothing, and the
completion when all cells are driven (log 7). -/
def transferStep (build : Config) (e : Env) (c : CoreState) : Host.Outcome CoreState Fault Refusal :=
  if c.regs.txidx < build.frameCells then
    if cellPulse e then
      match c.regs.framebuf.readCell c.regs.txidx with
      | some x => .next (driveCell x c)
      | none => .fault .cellHasNoValue
    else .next { c with regs.phase := .transmit }
  else if c.regs.txidx = build.frameCells then completeTransfer build c
  else .fault .cellIndexOutOfRange

/-- The bus turns the transfer away: on entry to TRANSMIT, with TXIDX = 0, `BusAccept()` answers `reject` (rules R143,
R144). -/
def turnedAway (e : Env) (c : CoreState) : Bool :=
  decide (c.regs.txidx = 0) && decide (busAccept e = .reject)

/-- TRANSMIT (rule R166): on entry `BusAccept()`, then the cells (rules R143 to R146). -/
def execTransmit (s : State) : Host.Outcome State Fault Refusal :=
  s.run (if turnedAway s.env s.core then .next (raise .transportError s.core) else transferStep s.build s.env s.core)

/-- A group of cells on the line from cell TXIDX on, where it fits before the end of the frame (rules R74, R76, R145;
log 12, 14). -/
def driveGroup (cells : List Bool) (s : State) : Host.Outcome State Fault Refusal :=
  s.run (if s.core.regs.txidx + cells.length ≤ s.build.frameCells then .next (driveCells cells s.core)
    else .fault .cellIndexOutOfRange)

/-- SYM0: the cells of protocol bit 0, the build's `PAT0` (rules R74, R124; that the row's code stays `1000` in every build is
log 30). -/
def execSym0 (s : State) : Host.Outcome State Fault Refusal :=
  driveGroup (sym s.build false) s

/-- SYM1: the cells of protocol bit 1, the build's `PAT1` (rules R74, R124; that the row's code stays `1110` in every build is
log 30). -/
def execSym1 (s : State) : Host.Outcome State Fault Refusal :=
  driveGroup (sym s.build true) s

/-- GAPCELL: one group of low cells of the gap (rule R126). -/
def execGapcell (s : State) : Host.Outcome State Fault Refusal :=
  driveGroup (List.replicate s.build.nCell false) s

/-- BB00: the byte 0x88, bit 7 first (rule R76), in every build (log 30). -/
def execBb00 (s : State) : Host.Outcome State Fault Refusal :=
  driveGroup (byteBits (busByte false false)) s

/-- BB01: the byte 0x8E, bit 7 first (rule R76), in every build (log 30). -/
def execBb01 (s : State) : Host.Outcome State Fault Refusal :=
  driveGroup (byteBits (busByte false true)) s

/-- BB10: the byte 0xE8, bit 7 first (rule R76), in every build (log 30). -/
def execBb10 (s : State) : Host.Outcome State Fault Refusal :=
  driveGroup (byteBits (busByte true false)) s

/-- BB11: the byte 0xEE, bit 7 first (rule R76), in every build (log 30). -/
def execBb11 (s : State) : Host.Outcome State Fault Refusal :=
  driveGroup (byteBits (busByte true true)) s

/-- BBGAP: the byte 0x00 of the gap (rule R76), in every build (log 30). -/
def execBbgap (s : State) : Host.Outcome State Fault Refusal :=
  driveGroup (byteBits 0x00) s

/-- TXERR.OK: the transfer was accepted and is complete (rules R28, R146; log 12). -/
def execTxerrOk (s : State) : Host.Outcome State Fault Refusal :=
  s.run (completeTransfer s.build s.core)

/-- TXERR.TRANSPORT_ERROR: the transfer was rejected, nothing is driven (rules R28, R192; log 12). -/
def execTxerrTransportError (s : State) : Host.Outcome State Fault Refusal :=
  s.run (.next (raise .transportError s.core))

end Sys2Proof.Machine
end

