-- ==== Sys2Proof/Syntax.lean ====
section
/-! DEFINITION. The instructions of the model: one constructor for each row of spec/opcode_table.json (rule R85). The
eight rows of format PHASE are the operations of the core (rule R12). The other rows are codes of the units inside an
operation (log 12). -/

namespace Sys2Proof

/-- The 29 rows of spec/opcode_table.json. -/
inductive Instr where
  /- format PHASE (rule R84) -/
  | init
  | capture
  | convert
  | encode
  | transmit
  | advance
  | pace
  | halt
  /- format HSV (rules R71, R102): the hue is ignored, the saturation field is 0 -/
  | convertAchromatic (h v : U8)
  /- format REGION (rules R81, R108) -/
  | convertRegion0
  | convertRegion1
  | convertRegion2
  | convertRegion3
  | convertRegion4
  | convertRegion5
  /- format SYM (rules R74, R124, R126) -/
  | sym0
  | sym1
  | gapcell
  /- format BUSBYTE (rule R76) -/
  | bb00
  | bb01
  | bb10
  | bb11
  | bbgap
  /- format FAULT (rules R86, R88, R191) -/
  | faultNone
  | faultInitFailure
  | faultReserved2
  | faultReserved3
  /- format TXERR (rules R28, R146, R192) -/
  | txerrOk
  | txerrTransportError
  deriving DecidableEq, Repr

end Sys2Proof
end

