-- ==== Sys2Proof/WellFormed.lean ====
section
/-! DEFINITION. Which instructions are well formed: every row but the reserved fault codes, which the spec calls
reserved and never produced (rules R86, R88 (d)). Operands are bytes, so no operand can be out of range (rule R71). -/

namespace Sys2Proof

/-- The code is one the spec gives a meaning to: not one of the reserved `FAULT` codes (rule R88 (d)). -/
def Instr.wf : Instr → Bool
  | .faultReserved2 => false
  | .faultReserved3 => false
  | .init | .capture | .convert | .encode | .transmit | .advance | .pace | .halt => true
  | .convertAchromatic _ _ => true
  | .convertRegion0 | .convertRegion1 | .convertRegion2 => true
  | .convertRegion3 | .convertRegion4 | .convertRegion5 => true
  | .sym0 | .sym1 | .gapcell => true
  | .bb00 | .bb01 | .bb10 | .bb11 | .bbgap => true
  | .faultNone | .faultInitFailure => true
  | .txerrOk | .txerrTransportError => true

end Sys2Proof
end

