-- ==== Sys2Proof/Decode.lean ====
section
/-! DEFINITION. The codes of the core, read and written: the formats that have rows in spec/opcode_table.json, the
decoder of each, the encoder, and what a hue byte selects (rules R70 to R88; log 12, 17). -/

namespace Sys2Proof

/-- The formats of rule R70 that have rows in the table; TXERR is the flag of rule R28 (rule R85). -/
inductive Format where
  | phase
  | hsv
  | region
  | sym
  | busbyte
  | fault
  | txerr
  deriving DecidableEq, Repr

/-- Why a number is no code of a format. -/
inductive DecodeError where
  /-- it has more bits than the format -/
  | tooWide
  /-- an HSV word with a saturation other than 0: its arm is a `REGION` code (`selectArm`), not an HSV row -/
  | chromatic
  /-- `REGION` codes 6 and 7 (rule R88 (a)) -/
  | unreachableRegion
  /-- a cell group that is no symbol (rule R88 (b)) -/
  | invalidSymbol
  /-- a byte other than the five of rule R76 (rule R88 (c)) -/
  | invalidBusByte
  deriving DecidableEq, Repr

/-- The width of a format in bits (rule R70). -/
def Format.width : Format → Nat
  | .phase => 3
  | .hsv => 24
  | .region => 3
  | .sym => 4
  | .busbyte => 8
  | .fault => 2
  | .txerr => 1

/-- The code of each PHASE value (rule R84). -/
def Phase.code : Phase → BitVec 3
  | .init => 0b000
  | .capture => 0b001
  | .convert => 0b010
  | .encode => 0b011
  | .transmit => 0b100
  | .advance => 0b101
  | .pace => 0b110
  | .halt => 0b111

/-- The PHASE value of each code: all eight are used (rules R84, R88 (e)). -/
def Phase.ofCode (c : BitVec 3) : Phase :=
  if c = 0b000 then .init
  else if c = 0b001 then .capture
  else if c = 0b010 then .convert
  else if c = 0b011 then .encode
  else if c = 0b100 then .transmit
  else if c = 0b101 then .advance
  else if c = 0b110 then .pace
  else .halt

/-- The operation a PHASE value names (rule R84). -/
def Phase.operation : Phase → Instr
  | .init => .init
  | .capture => .capture
  | .convert => .convert
  | .encode => .encode
  | .transmit => .transmit
  | .advance => .advance
  | .pace => .pace
  | .halt => .halt

/-- Format PHASE (rule R84). -/
def decodePhase (w : Nat) : Except DecodeError Instr :=
  if w < 8 then .ok (Phase.ofCode (BitVec.ofNat 3 w)).operation else .error .tooWide

/-- Format HSV, `h` in bits 23:16, `s` in bits 15:8, `v` in bits 7:0 (rule R71): the row with `s` = 0 (rule R102). -/
def decodeHsv (w : Nat) : Except DecodeError Instr :=
  if w < 2 ^ 24 then
    if w / 2 ^ 8 % 2 ^ 8 = 0 then .ok (.convertAchromatic (BitVec.ofNat 8 (w / 2 ^ 16)) (BitVec.ofNat 8 w))
    else .error .chromatic
  else .error .tooWide

/-- Format REGION (rule R81). -/
def decodeRegion (w : Nat) : Except DecodeError Instr :=
  if w = 0b000 then .ok .convertRegion0
  else if w = 0b001 then .ok .convertRegion1
  else if w = 0b010 then .ok .convertRegion2
  else if w = 0b011 then .ok .convertRegion3
  else if w = 0b100 then .ok .convertRegion4
  else if w = 0b101 then .ok .convertRegion5
  else if w < 8 then .error .unreachableRegion
  else .error .tooWide

/-- Format SYM, the first cell in bit 3 (rules R74, R88 (b)). -/
def decodeSymCode (w : Nat) : Except DecodeError Instr :=
  if w = 0b1000 then .ok .sym0
  else if w = 0b1110 then .ok .sym1
  else if w = 0b0000 then .ok .gapcell
  else if w < 16 then .error .invalidSymbol
  else .error .tooWide

/-- Format BUSBYTE, the first cell in bit 7 (rules R76, R88 (c)). -/
def decodeBusByte (w : Nat) : Except DecodeError Instr :=
  if w = 0x88 then .ok .bb00
  else if w = 0x8E then .ok .bb01
  else if w = 0xE8 then .ok .bb10
  else if w = 0xEE then .ok .bb11
  else if w = 0x00 then .ok .bbgap
  else if w < 256 then .error .invalidBusByte
  else .error .tooWide

/-- Format FAULT (rule R86). -/
def decodeFault (w : Nat) : Except DecodeError Instr :=
  if w = 0b00 then .ok .faultNone
  else if w = 0b01 then .ok .faultInitFailure
  else if w = 0b10 then .ok .faultReserved2
  else if w = 0b11 then .ok .faultReserved3
  else .error .tooWide

/-- The flag TXERR (rule R28). -/
def decodeTxerr (w : Nat) : Except DecodeError Instr :=
  if w = 0 then .ok .txerrOk
  else if w = 1 then .ok .txerrTransportError
  else .error .tooWide

/-- The decoder: a number, read as a code of one format. It answers for every number. -/
def decode : Format → Nat → Except DecodeError Instr
  | .phase => decodePhase
  | .hsv => decodeHsv
  | .region => decodeRegion
  | .sym => decodeSymCode
  | .busbyte => decodeBusByte
  | .fault => decodeFault
  | .txerr => decodeTxerr

/-- The format of each row. -/
def Instr.format : Instr → Format
  | .init | .capture | .convert | .encode | .transmit | .advance | .pace | .halt => .phase
  | .convertAchromatic _ _ => .hsv
  | .convertRegion0 | .convertRegion1 | .convertRegion2 => .region
  | .convertRegion3 | .convertRegion4 | .convertRegion5 => .region
  | .sym0 | .sym1 | .gapcell => .sym
  | .bb00 | .bb01 | .bb10 | .bb11 | .bbgap => .busbyte
  | .faultNone | .faultInitFailure | .faultReserved2 | .faultReserved3 => .fault
  | .txerrOk | .txerrTransportError => .txerr

/-- The encoder: the code of each row, from its "encoding" in the table (rules R71, R74, R76, R81, R84, R86). -/
def encode : Instr → Nat
  | .init => 0b000
  | .capture => 0b001
  | .convert => 0b010
  | .encode => 0b011
  | .transmit => 0b100
  | .advance => 0b101
  | .pace => 0b110
  | .halt => 0b111
  | .convertAchromatic h v => h.toNat * 2 ^ 16 + v.toNat
  | .convertRegion0 => 0b000
  | .convertRegion1 => 0b001
  | .convertRegion2 => 0b010
  | .convertRegion3 => 0b011
  | .convertRegion4 => 0b100
  | .convertRegion5 => 0b101
  | .sym0 => 0b1000
  | .sym1 => 0b1110
  | .gapcell => 0b0000
  | .bb00 => 0b10001000
  | .bb01 => 0b10001110
  | .bb10 => 0b11101000
  | .bb11 => 0b11101110
  | .bbgap => 0b00000000
  | .faultNone => 0b00
  | .faultInitFailure => 0b01
  | .faultReserved2 => 0b10
  | .faultReserved3 => 0b11
  | .txerrOk => 0
  | .txerrTransportError => 1

theorem div43_lt_six (h : U8) : h.toNat / 43 < 6 := by
  have := h.isLt
  omega

/-- `region = h / 43`, floor division (rules R80, R103): the six regions, no seventh (rule R88 (a)). -/
def region (h : U8) : Fin 6 :=
  ⟨h.toNat / 43, div43_lt_six h⟩

/-- The row of a region (rule R81). -/
def regionInstr : Fin 6 → Instr
  | 0 => .convertRegion0
  | 1 => .convertRegion1
  | 2 => .convertRegion2
  | 3 => .convertRegion3
  | 4 => .convertRegion4
  | 5 => .convertRegion5

/-- The arm of `convert` that an HSV input selects: `s = 0` is tested first, then the region (rules R81, R100, R102). -/
def selectArm (h s v : U8) : Instr :=
  if s = 0 then .convertAchromatic h v else regionInstr (region h)

/-- The formats a bare number of `nbits` bits is tried in, in order. A number of the table's rows rounded up to whole
bytes does not say its format, and several formats share codes: the sequencer's own format comes first (log 17). -/
def formatsOf (nbits : Nat) : List Format :=
  if nbits = 24 then [.hsv]
  else if nbits = 8 then [.phase, .sym, .busbyte]
  else if nbits = 4 then [.sym]
  else if nbits = 3 then [.phase]
  else if nbits = 2 then [.fault]
  else if nbits = 1 then [.txerr]
  else []

/-- The first format of a list that reads the number. -/
def decodeFirst : List Format → Nat → Option Instr
  | [], _ => none
  | f :: fs, w =>
    match decode f w with
    | .ok i => some i
    | .error _ => decodeFirst fs w

/-- The instruction the decoder reads from a number of `nbits` bits as spec/opcode_table.json numbers them (log 17). -/
def decodeTableWord (nbits w : Nat) : Option Instr :=
  decodeFirst (formatsOf nbits) w

end Sys2Proof
end

