-- ==== Sys2Proof/Machine/ColorConverter.lean ====
section
/-! DEFINITION. The Color Converter: `convert` term by term, its seven arms, and the operation CONVERT (rules R80, R81,
R100 to R114, R164; log 12, 13). -/

namespace Sys2Proof.Machine

/-- `remainder = (h - region*43) * 6` (rules R80, R104). -/
def remainder (h : U8) : Nat :=
  (h.toNat - (region h).val * 43) * 6

/-- `p = (v * (255 - s)) / 256` (rule R105). -/
def termP (s v : U8) : Nat :=
  v.toNat * (255 - s.toNat) / 256

/-- `q = (v * (255 - (s * remainder) / 256)) / 256` (rule R106). -/
def termQ (h s v : U8) : Nat :=
  v.toNat * (255 - s.toNat * remainder h / 256) / 256

/-- `t = (v * (255 - (s * (255 - remainder)) / 256)) / 256` (rule R107). -/
def termT (h s v : U8) : Nat :=
  v.toNat * (255 - s.toNat * (255 - remainder h) / 256) / 256

/-- A term, back in 8 bits: nothing is lost, every quotient is at most 254 (rule R110). -/
def narrow (n : Nat) : U8 :=
  BitVec.ofNat 8 n

/-- The channel assignment of one region (rules R81, R108). -/
def convertArm (k : Fin 6) (h s v : U8) : RGB :=
  let p := narrow (termP s v)
  let q := narrow (termQ h s v)
  let t := narrow (termT h s v)
  match k with
  | 0 => ⟨v, t, p⟩
  | 1 => ⟨q, v, p⟩
  | 2 => ⟨p, v, t⟩
  | 3 => ⟨p, q, v⟩
  | 4 => ⟨t, p, v⟩
  | 5 => ⟨v, p, q⟩

/-- The achromatic arm (rule R102). -/
def achromatic (v : U8) : RGB :=
  ⟨v, v, v⟩

/-- `convert(h, s, v)` (rule R109). -/
def convert (h s v : U8) : RGB :=
  if s = 0 then achromatic v else convertArm (region h) h s v

/-- `emit(Diag(HUE))` and the diagnostic pins, in a build that has them (rules R31, R164, U20). -/
def showDiag (build : Config) (c : CoreState) : CoreState :=
  if build.diagPresent then { emit (.diag c.regs.hue) c with diag := some c.regs.hue } else c

/-- The end of CONVERT with the colour of an arm: `(R, G, B) <- x; emit(Diag(HUE)); PHASE <- ENCODE` (rule R164). -/
def finishConvert (build : Config) (x : RGB) (c : CoreState) : CoreState :=
  { showDiag build c with regs.r := x.r, regs.g := x.g, regs.b := x.b, regs.phase := .encode }

/-- CONVERT (rule R164). -/
def execConvert (s : State) : Host.Outcome State Fault Refusal :=
  s.run (.next (finishConvert s.build (convert s.core.regs.hue s.build.sat s.build.val) s.core))

/-- CONVERT.ACHROMATIC, the arm for `{h, 0, v}`: `(v, v, v)` whatever the hue (rule R102; log 12). -/
def execConvertAchromatic (_h v : U8) (s : State) : Host.Outcome State Fault Refusal :=
  s.run (.next (finishConvert s.build (achromatic v) s.core))

/-- CONVERT.REGION0: `(v, t, p)` (rule R108; log 12, 13). -/
def execConvertRegion0 (s : State) : Host.Outcome State Fault Refusal :=
  s.run (.next (finishConvert s.build (convertArm 0 s.core.regs.hue s.build.sat s.build.val) s.core))

/-- CONVERT.REGION1: `(q, v, p)` (rule R108; log 12, 13). -/
def execConvertRegion1 (s : State) : Host.Outcome State Fault Refusal :=
  s.run (.next (finishConvert s.build (convertArm 1 s.core.regs.hue s.build.sat s.build.val) s.core))

/-- CONVERT.REGION2: `(p, v, t)` (rule R108; log 12, 13). -/
def execConvertRegion2 (s : State) : Host.Outcome State Fault Refusal :=
  s.run (.next (finishConvert s.build (convertArm 2 s.core.regs.hue s.build.sat s.build.val) s.core))

/-- CONVERT.REGION3: `(p, q, v)` (rule R108; log 12, 13). -/
def execConvertRegion3 (s : State) : Host.Outcome State Fault Refusal :=
  s.run (.next (finishConvert s.build (convertArm 3 s.core.regs.hue s.build.sat s.build.val) s.core))

/-- CONVERT.REGION4: `(t, p, v)` (rule R108; log 12, 13). -/
def execConvertRegion4 (s : State) : Host.Outcome State Fault Refusal :=
  s.run (.next (finishConvert s.build (convertArm 4 s.core.regs.hue s.build.sat s.build.val) s.core))

/-- CONVERT.REGION5: `(v, p, q)` (rule R108; log 12, 13). -/
def execConvertRegion5 (s : State) : Host.Outcome State Fault Refusal :=
  s.run (.next (finishConvert s.build (convertArm 5 s.core.regs.hue s.build.sat s.build.val) s.core))

end Sys2Proof.Machine
end

