-- ==== Sys2Proof/Machine/FrameScheduler.lean ====
section
/-! DEFINITION. The Frame Scheduler's own operations INIT, CAPTURE, ADVANCE, PACE, HALT, and the fault codes that INIT
raises (rules R86, R88, R162, R163, R167 to R169, R191; log 12, 15, 16, 21). -/

namespace Sys2Proof.Machine

/-- INIT (rule R162): wait for the bus-initialisation verdict. -/
def execInit (s : State) : Host.Outcome State Fault Refusal :=
  s.run (match busInitVerdict s.env with
    | .pending => .next { s.core with regs.phase := .init }
    | .ok => .next { s.core with regs.phase := .capture }
    | .fail => .next (raise .initFailure s.core))

/-- CAPTURE (rule R163): `TSTART <- ClockRead(); PHASE <- CONVERT`. -/
def execCapture (s : State) : Host.Outcome State Fault Refusal :=
  s.run (.next { s.core with regs.tstart := clockRead s.env, regs.phase := .convert })

/-- ADVANCE (rule R167): `HUE <- (HUE + HUE_STEP) mod 256; PHASE <- PACE`. -/
def execAdvance (s : State) : Host.Outcome State Fault Refusal :=
  s.run (.next { s.core with regs.hue := s.core.regs.hue + s.build.hueStep, regs.phase := .pace })

/-- PACE (rule R168): one clock read and one comparison. -/
def execPace (s : State) : Host.Outcome State Fault Refusal :=
  s.run (.next { s.core with
    regs.phase := if periodReached s.build (clockRead s.env) s.core.regs.tstart then .capture else .pace })

/-- HALT (rule R169): stay; every output keeps its value. -/
def execHalt (s : State) : Host.Outcome State Fault Refusal :=
  s.run (.next { s.core with regs.phase := .halt })

/-- FAULT.NONE: not halted, nothing is raised (rule R86; log 15). -/
def execFaultNone (s : State) : Host.Outcome State Fault Refusal :=
  s.run (.next s.core)

/-- FAULT.INIT_FAILURE: the fatal failure (rule R191; log 12). -/
def execFaultInitFailure (s : State) : Host.Outcome State Fault Refusal :=
  s.run (.next (raise .initFailure s.core))

/-- FAULT.RESERVED2: reserved, never produced (rules R86, R88 (d); log 16). -/
def execFaultReserved2 (_s : State) : Host.Outcome State Fault Refusal :=
  .refused .reservedFaultCode

/-- FAULT.RESERVED3: reserved, never produced (rules R86, R88 (d); log 16). -/
def execFaultReserved3 (_s : State) : Host.Outcome State Fault Refusal :=
  .refused .reservedFaultCode

end Sys2Proof.Machine
end

