-- ==== Sys2Proof/Machine/Dispatch.lean ====
section
/-! DEFINITION. One arm per row of spec/opcode_table.json. -/

namespace Sys2Proof.Machine

def exec (i : Instr) (s : State) : Host.Outcome State Fault Refusal :=
  match i with
  | .init => Sys2Proof.Machine.execInit s
  | .capture => Sys2Proof.Machine.execCapture s
  | .convert => Sys2Proof.Machine.execConvert s
  | .encode => Sys2Proof.Machine.execEncode s
  | .transmit => Sys2Proof.Machine.execTransmit s
  | .advance => Sys2Proof.Machine.execAdvance s
  | .pace => Sys2Proof.Machine.execPace s
  | .halt => Sys2Proof.Machine.execHalt s
  | .convertAchromatic h v => Sys2Proof.Machine.execConvertAchromatic h v s
  | .convertRegion0 => Sys2Proof.Machine.execConvertRegion0 s
  | .convertRegion1 => Sys2Proof.Machine.execConvertRegion1 s
  | .convertRegion2 => Sys2Proof.Machine.execConvertRegion2 s
  | .convertRegion3 => Sys2Proof.Machine.execConvertRegion3 s
  | .convertRegion4 => Sys2Proof.Machine.execConvertRegion4 s
  | .convertRegion5 => Sys2Proof.Machine.execConvertRegion5 s
  | .sym0 => Sys2Proof.Machine.execSym0 s
  | .sym1 => Sys2Proof.Machine.execSym1 s
  | .gapcell => Sys2Proof.Machine.execGapcell s
  | .bb00 => Sys2Proof.Machine.execBb00 s
  | .bb01 => Sys2Proof.Machine.execBb01 s
  | .bb10 => Sys2Proof.Machine.execBb10 s
  | .bb11 => Sys2Proof.Machine.execBb11 s
  | .bbgap => Sys2Proof.Machine.execBbgap s
  | .faultNone => Sys2Proof.Machine.execFaultNone s
  | .faultInitFailure => Sys2Proof.Machine.execFaultInitFailure s
  | .faultReserved2 => Sys2Proof.Machine.execFaultReserved2 s
  | .faultReserved3 => Sys2Proof.Machine.execFaultReserved3 s
  | .txerrOk => Sys2Proof.Machine.execTxerrOk s
  | .txerrTransportError => Sys2Proof.Machine.execTxerrTransportError s

end Sys2Proof.Machine
end

