-- ==== Sys2Proof/Machine/Fetch.lean ====
section
/-! DEFINITION. How the next step comes to run a given row: the operation that PHASE names, and for a code of a unit the
inputs and registers under which the next step goes through it (rules R26, R64, R84; log 17, 18). -/

namespace Sys2Proof.Machine

/-- The code the sequencer decodes: the register PHASE (rules R26, R84). -/
def fetchCode (c : CoreState) : Nat :=
  c.regs.phase.code.toNat

/-- The operation that the fetched code names: all eight codes name one, so nothing is rejected (rules R84, R193). -/
def fetchOperation (c : CoreState) : Instr :=
  (Phase.ofCode (BitVec.ofNat 3 (fetchCode c))).operation

/-- PHASE at an operation, with reset not asserted. -/
def atPhase (p : Phase) (s : State) : State :=
  { s with core.regs.phase := p, env.pins.rst := false }

/-- CONVERT with a hue of region `k` and a saturation that is not 0. -/
def atRegion (k : Nat) (s : State) : State :=
  { atPhase .convert s with
    core.regs.hue := BitVec.ofNat 8 (43 * k)
    build.sat := if s.build.sat = 0 then 255 else s.build.sat }

/-- An accepted transfer whose next cells are the given ones, with a pulse for the first. -/
def atCells (i : Nat) (cells : List Bool) (s : State) : State :=
  { atPhase .transmit s with
    core.regs.framebuf := s.core.regs.framebuf.write i cells
    core.regs.txidx := i
    env.granted := true
    env.pins.cellEn := true }

/-- The machine whose very next step runs the instruction; for a group of cells, the step that drives its first cell. Placing
chooses the machine to run, its build included; it is no step, and no step changes a build (rule R11; log 18). -/
def placeInstr (i : Instr) (s : State) : State :=
  match i with
  | .init => atPhase .init s
  | .capture => atPhase .capture s
  | .convert => atPhase .convert s
  | .encode => atPhase .encode s
  | .transmit => atPhase .transmit s
  | .advance => atPhase .advance s
  | .pace => atPhase .pace s
  | .halt => atPhase .halt s
  | .convertAchromatic h v => { atPhase .convert s with core.regs.hue := h, build.sat := 0, build.val := v }
  | .convertRegion0 => atRegion 0 s
  | .convertRegion1 => atRegion 1 s
  | .convertRegion2 => atRegion 2 s
  | .convertRegion3 => atRegion 3 s
  | .convertRegion4 => atRegion 4 s
  | .convertRegion5 => atRegion 5 s
  | .sym0 => atCells 0 (sym s.build false) s
  | .sym1 => atCells 0 (sym s.build true) s
  | .gapcell => atCells (s.build.frameCells - s.build.nCell) (List.replicate s.build.nCell false) s
  | .bb00 => atCells 0 (byteBits (busByte false false)) s
  | .bb01 => atCells 0 (byteBits (busByte false true)) s
  | .bb10 => atCells 0 (byteBits (busByte true false)) s
  | .bb11 => atCells 0 (byteBits (busByte true true)) s
  | .bbgap => atCells (s.build.frameCells - 8) (byteBits 0x00) s
  | .faultNone => { atPhase .init s with env.pins.busInitDone := false }
  | .faultInitFailure => { atPhase .init s with env.pins.busInitDone := true, env.pins.busInitOk := false }
  | .faultReserved2 => s
  | .faultReserved3 => s
  | .txerrOk =>
    { atPhase .transmit s with
      core.regs.framebuf := s.core.regs.framebuf.write 0 (encodeFrame s.build [s.core.regs.rgb])
      core.regs.txidx := s.build.frameCells
      env.granted := true }
  | .txerrTransportError =>
    { atPhase .transmit s with core.regs.txidx := 0, env.granted := false, env.pins.busReject := true }

end Sys2Proof.Machine
end

