-- ==== Sys2Proof/Machine/Step.lean ====
section
/-! DEFINITION. One step of the core (rule R161): reset if it is asserted, otherwise the operation PHASE names; and of the
closed system, which is a step of the core and then the environment's turn (log 1, 4, 6, 11, 17, 18, 19). -/

namespace Sys2Proof.Machine

/-- One step of the core at one rising edge of `clk`: the build is an argument, the environment is what the core polls, and
what changes is the core alone (rules R32, R46, R161, R196, R220). -/
def coreStep (build : Config) (e : Env) (c : CoreState) : Host.Outcome CoreState Fault Refusal :=
  match buildRefusal build with
  | some r => .refused r
  | none =>
    if e.pins.rst then .next (applyReset build e c)
    else coreOutcome (exec (fetchOperation c) ⟨build, strobesLow c, e⟩)

/-- One step of the closed system: the core's step, and the environment's turn. -/
def step (s : State) : Host.Outcome State Fault Refusal :=
  s.afterCore (coreStep s.build s.env s.core)

/-- The machine whose very next step runs the instruction that the decoder reads from the number (log 17, 18). -/
def State.withFetchWord (s : State) (nbits w : Nat) : State :=
  match decodeTableWord nbits w with
  | some i => placeInstr i s
  | none => s

end Sys2Proof.Machine
end

