-- ==== Sys2Proof/Safety.lean ====
section
/-! DEFINITION. The terms claims about runs are made in: the run states, what waiting is, the premises about the
environment, and the invariants of the machine (rules R26, R27, R30, R40, R43, R170 to R174, R194; log 4, 21). -/

namespace Sys2Proof.Machine

/-- `n` steps, stopping at the first fault or refusal. -/
def runSteps (n : Nat) (s : State) : Host.Outcome State Fault Refusal :=
  Host.Core.run Sys2Proof.core n s

/-! Run states (rules R27, R194). -/

/-- Halted (rule R27). -/
def Halted (s : State) : Prop :=
  s.core.regs.phase = .halt

/-- Before the scheduler starts (rule R27). -/
def BeforeStart (s : State) : Prop :=
  s.core.regs.phase = .init

/-- Running (rule R27): one of the six loop phases. -/
def LoopRunning (s : State) : Prop :=
  s.core.regs.phase ≠ .init ∧ s.core.regs.phase ≠ .halt

/-- The environment withholds the answer the operation waits for: a verdict, a cell pulse, or time (rule R194). -/
def Waiting (s : State) : Prop :=
  match s.core.regs.phase with
  | .init => busInitVerdict s.env = .pending
  | .transmit =>
    turnedAway s.env s.core = false ∧ s.core.regs.txidx < s.build.frameCells ∧ cellPulse s.env = false
  | .pace => periodReached s.build (clockRead s.env) s.core.regs.tstart = false
  | .capture | .convert | .encode | .advance | .halt => False

/-- The successors of a phase (rule R26), reset apart. -/
def phaseSuccessors : Phase → List Phase
  | .init => [.init, .capture, .halt]
  | .capture => [.convert]
  | .convert => [.encode]
  | .encode => [.transmit]
  | .transmit => [.transmit, .advance]
  | .advance => [.pace]
  | .pace => [.pace, .capture]
  | .halt => [.halt]

/-! Premises about the environment. -/

/-- The pins at the `j`-th coming step, the coming one being the 0th (log 4). -/
def pinsAfter (p : Pins) : List Pins → Nat → Pins
  | _, 0 => p
  | [], _ + 1 => p
  | q :: qs, j + 1 => pinsAfter q qs j

/-- The pins at the `j`-th coming step of a state. -/
def pinsAt (s : State) (j : Nat) : Pins :=
  pinsAfter s.env.pins s.env.script j

/-- Clock property (a) of rule R40: the clock never falls from one step to the next. -/
def ClockMonotone (s : State) : Prop :=
  ((s.env.pins :: s.env.script).map (fun p => p.now.toNat)).Pairwise (· ≤ ·)

/-- Clock property (b) of rule R40: for every tick count `T` some coming read is at least `T`; with (a) the reads after it are
so too (log 21). -/
def ClockProgress (s : State) : Prop :=
  ∀ T : Stamp, ∃ j, T.toNat ≤ (pinsAt s j).now.toNat

/-- Cell pulses in the next `n` steps (rule R43). -/
def pulsesIn (s : State) : Nat → Nat
  | 0 => 0
  | n + 1 => pulsesIn s n + (pinsAt s n).cellEn.toNat

/-- Reset is not asserted in the next `n` steps. -/
def NoReset (s : State) (n : Nat) : Prop :=
  ∀ j, j < n → (pinsAt s j).rst = false

/-- Two settings of the environment that agree on every input the core polls (rule R195): the verdict in INIT, the clock in
CAPTURE and PACE, the acceptance on entry to TRANSMIT, the cell pulse during TRANSMIT; no other operation polls one. -/
def PolledAlike (c : CoreState) (e f : Env) : Prop :=
  match c.regs.phase with
  | .init => busInitVerdict e = busInitVerdict f
  | .capture | .pace => clockRead e = clockRead f
  | .transmit => (c.regs.txidx = 0 → busAccept e = busAccept f) ∧ cellPulse e = cellPulse f
  | .convert | .encode | .advance | .halt => True

/-! What a run has done so far, read off the trace. -/

/-- The timestamps of the frames sent or dropped, oldest first (rule R44). -/
def frameStamps : List Event → List Nat
  | [] => []
  | .frameSent _ ts :: es => ts.toNat :: frameStamps es
  | .frameDropped ts :: es => ts.toNat :: frameStamps es
  | .diag _ :: es => frameStamps es
  | .fatal _ :: es => frameStamps es
  | .frameAborted _ :: es => frameStamps es

/-- How many frames have been sent or dropped since reset. -/
def framesDone (t : List Event) : Nat :=
  (frameStamps t).length

/-- The hue of frame `k`: `(HUE_INIT + k * HUE_STEP) mod 256` (rule R170). -/
def hueOfFrame (build : Config) (k : Nat) : U8 :=
  BitVec.ofNat 8 (build.hueInit.toNat + k * build.hueStep.toNat)

/-- The frame the loop is in: its number among those since reset (rule R170). TRANSMIT has recorded the frame that
ADVANCE belongs to. -/
def frameIndex (s : State) : Nat :=
  framesDone s.core.trace - (if s.core.regs.phase = .advance then 1 else 0)

/-- The Diag event of frame `k`, in a build that has the diagnostic output (rules R31, R174, U20). -/
def diagEvent (build : Config) (k : Nat) : List Event :=
  if build.diagPresent then [.diag (hueOfFrame build k)] else []

/-- How frame `k` ended: sent, with the cells of its hue's colour, or dropped; and its timestamp `TSTART_k` (rule R174). -/
def frameEvent (build : Config) (k : Nat) (sent : Bool) (ts : Stamp) : Event :=
  if sent then .frameSent (encodeFrame build [convert (hueOfFrame build k) build.sat build.val]) ts else .frameDropped ts

/-- The events of the frames from frame `k` on, each given as its timestamp and whether it was sent (rule R174). -/
def framesTrace (build : Config) : Nat → List (Stamp × Bool) → List Event
  | _, [] => []
  | k, (ts, sent) :: fs => diagEvent build k ++ frameEvent build k sent ts :: framesTrace build (k + 1) fs

/-- What CAPTURE has read since reset, oldest first, kept beside a run: a reset empties it, and the step of CAPTURE adds its
read of the clock, the `TSTART_k` of the frame it begins (rules R163, R172). -/
def capturedAfter (captured : List Stamp) (s : State) : List Stamp :=
  if s.env.pins.rst then []
  else if s.core.regs.phase = .capture then captured ++ [clockRead s.env] else captured

/-! The invariants. -/

/-- The core is halted exactly when FATAL is 1, and FAULT_CODE says why (rules R27, R29). -/
def HaltInv (s : State) : Prop :=
  (s.core.regs.phase = .halt ↔ s.core.regs.fatal = true)
    ∧ (s.core.regs.fatal = true ↔ s.core.regs.faultCode = .initFailure)

/-- TXIDX counts the cells driven, LINE is the last of them and rests low outside a transfer (rules R25, R30, R145). -/
def TransportInv (s : State) : Prop :=
  s.core.regs.txidx ≤ s.build.frameCells
    ∧ (s.core.regs.phase ≠ .transmit → s.core.regs.txidx = 0 ∧ s.env.granted = false)
    ∧ (0 < s.core.regs.txidx → s.env.granted = true
      ∧ s.core.regs.framebuf.readCell (s.core.regs.txidx - 1) = some s.core.regs.line)
    ∧ (s.core.regs.txidx = 0 → s.core.regs.line = false)

/-- The frame buffer is in its canonical form and holds no cell past the frame (rule R50). -/
def BufferInv (s : State) : Prop :=
  s.core.regs.framebuf.wf ∧ ∀ e ∈ s.core.regs.framebuf, e.1 < s.build.frameCells

/-- What CONVERT and ENCODE leave for the operations after them (rule R61): the colour of the hue, and its frame. -/
def DataInv (s : State) : Prop :=
  (s.core.regs.phase = .encode ∨ s.core.regs.phase = .transmit →
      s.core.regs.rgb = convert s.core.regs.hue s.build.sat s.build.val)
    ∧ (s.core.regs.phase = .transmit →
      s.core.regs.framebuf.read 0 s.build.frameCells = some (encodeFrame s.build [s.core.regs.rgb]))

/-- The hue of the frame the loop is in (rule R170). -/
def HueInv (s : State) : Prop :=
  s.core.regs.hue = hueOfFrame s.build (frameIndex s)
    ∧ (s.core.regs.phase = .advance → 0 < framesDone s.core.trace)
    ∧ (s.core.regs.phase = .init ∨ s.core.regs.phase = .halt → framesDone s.core.trace = 0)

/-- The build is one the spec gives a machine for (log 19). -/
def BuildInv (s : State) : Prop :=
  buildRefusal s.build = none

/-- All of the above. -/
def MachineInv (s : State) : Prop :=
  BuildInv s ∧ HaltInv s ∧ TransportInv s ∧ BufferInv s ∧ DataInv s ∧ HueInv s

/-- The shape of the trace, phase by phase, where `captured` is what CAPTURE has read since reset (rule R174): after the
FrameAborted of the reset it began with, if any (rule R222, log 8), the events of the frames done, with the captured
timestamps, and the Diag of the frame in progress once CONVERT has run. -/
def TraceInv (captured : List Stamp) (s : State) : Prop :=
  ∃ (before : List Event) (frames : List (Stamp × Bool)) (rest : List Event),
    s.core.trace = before ++ framesTrace s.build 0 frames ++ rest
      ∧ (before = [] ∨ ∃ cells, before = [.frameAborted cells])
      ∧ (match s.core.regs.phase with
        | .init => frames = [] ∧ captured = [] ∧ rest = []
        | .halt => frames = [] ∧ captured = [] ∧ rest = [.fatal .initFailure]
        | .capture | .advance | .pace => captured = frames.map Prod.fst ∧ rest = []
        | .convert => captured = frames.map Prod.fst ++ [s.core.regs.tstart] ∧ rest = []
        | .encode | .transmit =>
          captured = frames.map Prod.fst ++ [s.core.regs.tstart] ∧ rest = diagEvent s.build frames.length)

/-- Frames start at least a period apart (rule R172), under a monotone clock. -/
def PeriodInv (s : State) : Prop :=
  ClockMonotone s
    ∧ (frameStamps s.core.trace).Pairwise (fun a b => a + s.build.framePeriodTicks ≤ b)
    ∧ (match s.core.regs.phase with
      | .init | .halt => frameStamps s.core.trace = []
      | .capture => ∀ a ∈ frameStamps s.core.trace, a + s.build.framePeriodTicks ≤ s.env.pins.now.toNat
      | .convert | .encode | .transmit =>
        (∀ a ∈ frameStamps s.core.trace, a + s.build.framePeriodTicks ≤ s.core.regs.tstart.toNat)
          ∧ s.core.regs.tstart.toNat ≤ s.env.pins.now.toNat
      | .advance | .pace =>
        (∀ a ∈ frameStamps s.core.trace, a ≤ s.core.regs.tstart.toNat)
          ∧ s.core.regs.tstart.toNat ≤ s.env.pins.now.toNat)

end Sys2Proof.Machine
end

