-- ==== Sys2Proof/Certificates/Slice0/Obligations.lean ====
section
/-! DEFINITION. The statements for the provers. Each docstring names the rules it formalises. Where a statement says that
`exec i s` is a given next state written as `s` with some fields changed, every field not named is unchanged. -/

open Sys2Proof Sys2Proof.Machine

/-! ### Codes -/

/-- The decoder gives back every row from its own code, with every value of its operands (rules R71, R74, R76, R81, R84,
R86, R102). -/
def Obligations.DecodingACodeGivesItsRow : Prop :=
  ∀ i : Instr, decode i.format (encode i) = .ok i ∧ encode i < 2 ^ i.format.width

/-- Words written out from the tables of 30_encoding.md, one or more of each format (rules R71, R74, R76, R81, R84, R86,
R28): each decodes to the row it stands for. -/
def Obligations.WrittenOutWordsDecodeToTheirRows : Prop :=
  decode .phase 0b000 = .ok .init ∧ decode .phase 0b100 = .ok .transmit ∧ decode .phase 0b111 = .ok .halt
    ∧ decode .hsv 0b110010000000000001001101 = .ok (.convertAchromatic 200 77)
    ∧ decode .region 0b101 = .ok .convertRegion5
    ∧ decode .sym 0b1000 = .ok .sym0 ∧ decode .sym 0b1110 = .ok .sym1 ∧ decode .sym 0b0000 = .ok .gapcell
    ∧ decode .busbyte 0b10001110 = .ok .bb01 ∧ decode .busbyte 0b11101000 = .ok .bb10
    ∧ decode .fault 0b01 = .ok .faultInitFailure ∧ decode .txerr 1 = .ok .txerrTransportError

/-- The codes that are none, by name (rule R88 (a) to (e)): REGION 6 and 7, cell groups and bus bytes other than those of
rules R74 and R76; the reserved FAULT codes are rows that are not well formed; every PHASE code is one. -/
def Obligations.StrayCodesAreRejectedByName : Prop :=
  (∀ w, 6 ≤ w → w < 8 → decode .region w = .error .unreachableRegion)
    ∧ (∀ w, w < 16 → w ≠ 0b1000 → w ≠ 0b1110 → w ≠ 0b0000 → decode .sym w = .error .invalidSymbol)
    ∧ (∀ w, w < 256 → w ≠ 0x88 → w ≠ 0x8E → w ≠ 0xE8 → w ≠ 0xEE → w ≠ 0x00 →
        decode .busbyte w = .error .invalidBusByte)
    ∧ (∀ w i, w < 4 → decode .fault w = .ok i → (i.wf = true ↔ w < 2))
    ∧ (∀ w, w < 8 → ∃ p : Phase, decode .phase w = .ok p.operation ∧ p.code.toNat = w)

/-- A number is a code of at most one row of a format: no two rows of one format overlap (rule R85). -/
def Obligations.NoTwoRowsOfAFormatShareACode : Prop :=
  ∀ i j : Instr, i.format = j.format → encode i = encode j → i = j

/-- Region and remainder of a hue, and the hues of each region (rule R80). -/
def Obligations.HueGivesRegionAndRemainder : Prop :=
  ∀ h : U8,
    (region h).val = h.toNat / 43 ∧ remainder h = (h.toNat - h.toNat / 43 * 43) * 6
      ∧ 6 ∣ remainder h ∧ remainder h ≤ 252 ∧ ((region h).val = 5 → remainder h ≤ 240)
      ∧ (∀ k : Fin 6, region h = k ↔ 43 * k.val ≤ h.toNat ∧ h.toNat ≤ min (43 * k.val + 42) 255)

/-! ### The Color Converter -/

/-- `convert` is the algorithm of rule R109, term by term (rules R102 to R108), and no term is cut by its 8 bits. -/
def Obligations.ConvertFollowsTheAlgorithm : Prop :=
  ∀ h s v : U8,
    (s = 0 → convert h s v = ⟨v, v, v⟩)
      ∧ (s ≠ 0 → ∃ p q t : U8,
          let rem := (h.toNat - h.toNat / 43 * 43) * 6
          p.toNat = v.toNat * (255 - s.toNat) / 256
            ∧ q.toNat = v.toNat * (255 - s.toNat * rem / 256) / 256
            ∧ t.toNat = v.toNat * (255 - s.toNat * (255 - rem) / 256) / 256
            ∧ (h.toNat / 43 = 0 → convert h s v = ⟨v, t, p⟩)
            ∧ (h.toNat / 43 = 1 → convert h s v = ⟨q, v, p⟩)
            ∧ (h.toNat / 43 = 2 → convert h s v = ⟨p, v, t⟩)
            ∧ (h.toNat / 43 = 3 → convert h s v = ⟨p, q, v⟩)
            ∧ (h.toNat / 43 = 4 → convert h s v = ⟨t, p, v⟩)
            ∧ (h.toNat / 43 = 5 → convert h s v = ⟨v, p, q⟩)
            ∧ h.toNat / 43 < 6)

/-- Bounds on the terms (rule R111). -/
def Obligations.ConverterTermsAreBounded : Prop :=
  ∀ h s v : U8,
    (1 ≤ s.toNat → termP s v ≤ termQ h s v ∧ termQ h s v ≤ v.toNat ∧ termP s v ≤ termT h s v ∧ termT h s v ≤ v.toNat)
      ∧ (1 ≤ s.toNat → 1 ≤ v.toNat →
          termP s v ≤ v.toNat - 1 ∧ termQ h s v ≤ v.toNat - 1 ∧ termT h s v ≤ v.toNat - 1)
      ∧ termP s v ≤ 254 ∧ termQ h s v ≤ 254 ∧ termT h s v ≤ 254
      ∧ (v = 0 → convert h s v = ⟨0, 0, 0⟩)
      ∧ (s = 255 → termP s v = 0)

/-- In any unsigned domain of 16 bits or more the terms come out the same: nothing wraps, no subtraction goes below zero,
dividing by 256 is shifting right by 8, and the largest product is 65025, reached where the rule says (rule R110). -/
def Obligations.SixteenBitsAreEnoughForTheTerms : Prop :=
  ∀ (w : Nat) (h s v : U8), 16 ≤ w →
    let hw := h.setWidth w
    let sw := s.setWidth w
    let vw := v.setWidth w
    let rem := (hw - hw / 43#w * 43#w) * 6#w
    (rem.toNat = remainder h)
      ∧ ((vw * (255#w - sw)) >>> 8).toNat = termP s v
      ∧ ((vw * (255#w - (sw * rem) >>> 8)) >>> 8).toNat = termQ h s v
      ∧ ((vw * (255#w - (sw * (255#w - rem)) >>> 8)) >>> 8).toNat = termT h s v
      ∧ s.toNat * (255 - remainder h) ≤ 65025 ∧ s.toNat * remainder h ≤ 65025
      ∧ v.toNat * (255 - s.toNat * remainder h / 256) ≤ 65025
      ∧ (1 ≤ s.toNat → v.toNat * (255 - s.toNat) ≤ 64770)
      ∧ s.toNat * remainder h / 256 ≤ 251 ∧ s.toNat * (255 - remainder h) / 256 ≤ 254
      ∧ (region h).val * 43 ≤ h.toNat
      ∧ termP s v ≤ 254 ∧ termQ h s v ≤ 254 ∧ termT h s v ≤ 254
      ∧ (s = 255 → remainder h = 0 → s.toNat * (255 - remainder h) = 65025)
      ∧ (v = 255 → s.toNat * remainder h / 256 = 0 → v.toNat * (255 - s.toNat * remainder h / 256) = 65025)

/-- The properties the source states of `convert` (rule R113): grey without saturation, red at hue 0, the primaries and
secondaries at the first hue of each region. -/
def Obligations.ConvertHasTheSourceProperties : Prop :=
  (∀ h v : U8, convert h 0 v = ⟨v, v, v⟩)
    ∧ (∀ v : U8, convert 0 255 v = ⟨v, 0, 0⟩)
    ∧ (∀ v : U8, ∃ q0 : U8, q0.toNat = v.toNat * 255 / 256 ∧ (1 ≤ v.toNat → q0.toNat = v.toNat - 1)
        ∧ convert 43 255 v = ⟨q0, v, 0⟩ ∧ convert 86 255 v = ⟨0, v, 0⟩ ∧ convert 129 255 v = ⟨0, q0, v⟩
        ∧ convert 172 255 v = ⟨0, 0, v⟩ ∧ convert 215 255 v = ⟨v, 0, q0⟩)

/-- Small steps inside the sweep and the jump at the wrap, for full saturation and value 100 (rule R114). -/
def Obligations.ColourJumpsAtTheHueWrapOnly : Prop :=
  (∀ h : Fin 255, ∀ ch : Fin 3,
      let part := fun (c : RGB) => if ch = 0 then c.r.toNat else if ch = 1 then c.g.toNat else c.b.toNat
      let a := part (convert (BitVec.ofNat 8 h.val) 255 100)
      let b := part (convert (BitVec.ofNat 8 (h.val + 1)) 255 100)
      a ≤ b + 3 ∧ b ≤ a + 3)
    ∧ convert 255 255 100 = ⟨100, 0, 6⟩ ∧ convert 0 255 100 = ⟨100, 0, 0⟩
    ∧ convert 255 255 255 = ⟨255, 0, 15⟩ ∧ convert 0 255 255 = ⟨255, 0, 0⟩

/-- CONVERT does what the arm does that the hue, SAT and VAL select (rules R81, R100, R102, R108). -/
def Obligations.ConvertRunsTheSelectedArm : Prop :=
  ∀ s : State, exec .convert s = exec (selectArm s.core.regs.hue s.build.sat s.build.val) s

/-! ### The Protocol Encoder -/

/-- The pixel word (rules R73, R123): protocol bit `j` is bit `7 - j mod 8` of the colour byte `CH_ORDER[j / 8]`; in the
default order the word as a number is `{g, r, b}`. -/
def Obligations.PixelWordIsInWireOrder : Prop :=
  ∀ (build : Config) (c : RGB), build.ok = true →
    (pixWord build c).length = 24
      ∧ (∀ j, j < 24 → ∃ ch, build.chOrder[j / 8]? = some ch
          ∧ (pixWord build c)[j]? = some ((c.channel ch).getLsbD (7 - j % 8)))
      ∧ (build.chOrder = [.green, .red, .blue] →
          (pixWord build c).foldl (fun n b => 2 * n + b.toNat) 0
            = c.g.toNat * 2 ^ 16 + c.r.toNat * 2 ^ 8 + c.b.toNat)

/-- The layout of a frame of any number of pixels (rules R75, R127, R132): cell `i` of protocol bit `j` of pixel `k`
stands at `24*N_CELL*k + N_CELL*j + i`, the gap follows the last pixel, and cell 0 is high. -/
def Obligations.FrameHasItsLayout : Prop :=
  ∀ (build : Config) (pixels : List RGB), build.ok = true →
    (encodeFrame build pixels).length = 24 * build.nCell * pixels.length + build.resetCells
      ∧ (∀ (k j i : Nat) (c : RGB) (b : Bool), pixels[k]? = some c → (pixWord build c)[j]? = some b → i < build.nCell →
          (encodeFrame build pixels)[24 * build.nCell * k + build.nCell * j + i]? = (sym build b)[i]?)
      ∧ (∀ i, i < build.resetCells →
          (encodeFrame build pixels)[24 * build.nCell * pixels.length + i]? = some false)
      ∧ (pixels ≠ [] → (encodeFrame build pixels)[0]? = some true)

/-- The shape of every frame with the patterns `1000` and `1110` (rule R128). -/
def Obligations.FrameHasTheShapeOfItsPatterns : Prop :=
  ∀ (build : Config) (pixels : List RGB), build.ok = true → build.nCell = 4 →
    build.pat0 = [true, false, false, false] → build.pat1 = [true, true, true, false] → pixels.length = build.npix →
    let frame := encodeFrame build pixels
    let bits := pixels.flatMap (pixWord build)
    frame.length = build.frameCells
      ∧ (pixels ≠ [] → frame[0]? = some true)
      ∧ frame.drop (96 * build.npix) = List.replicate build.resetCells false
      ∧ (∀ i, i < 96 * build.npix →
          (i % 4 = 0 → frame[i]? = some true) ∧ (i % 4 = 3 → frame[i]? = some false)
            ∧ (i % 4 = 1 ∨ i % 4 = 2 → frame[i]? = bits[i / 4]?))
      ∧ frame.count true = 24 * build.npix + 2 * bits.count true
      ∧ (∀ i, ¬ (∀ j, j < 4 → frame[i + j]? = some true))
      ∧ (∀ i, i + 3 < 96 * build.npix → ¬ (∀ j, j < 4 → frame[i + j]? = some false))

/-- Encoding round trip (rule R133): in any build whose patterns satisfy rule R131, the cell-domain decoder gives back
the protocol bits and the pixels, with no invalid group; and so does the time-domain decoder for every split threshold
between the two high times and every latch threshold longer than a symbol's low time and no longer than the gap. -/
def Obligations.EncodedFrameDecodesToItsPixels : Prop :=
  ∀ (build : Config) (pixels : List RGB), build.ok = true →
    decodeBits build pixels.length (encodeFrame build pixels) = some (pixels.flatMap (pixWord build))
      ∧ decodeFrame build pixels.length (encodeFrame build pixels) = some pixels
      ∧ (∀ latch, build.tSplitOk = true → build.nCell - Config.highCells build.pat0 < latch →
          latch ≤ build.resetCells →
          decodeRuns build latch (runsFrom 0 0 (encodeFrame build pixels)) = pixels.flatMap (pixWord build))

/-- Bus bytes (rules R76, R77): the default frame is the four bytes of green, of red and of blue, and 140 bytes 00. -/
def Obligations.DefaultFrameIsItsBusBytes : Prop :=
  ∀ c : RGB,
    byteView 152 (encodeFrame Config.default [c])
        = expandByte c.g ++ expandByte c.r ++ expandByte c.b ++ List.replicate 140 0
      ∧ (∀ a b : Bool, byteBits (busByte a b) = sym Config.default a ++ sym Config.default b)
      ∧ busByte false false = 0x88 ∧ busByte false true = 0x8E ∧ busByte true false = 0xE8 ∧ busByte true true = 0xEE
      ∧ expandByte 0x64 = [0x8E, 0xE8, 0x8E, 0x88]

/-- The byte view and the cell view are the same waveform (rule R50), whatever the cells. -/
def Obligations.ByteViewIsTheSameWaveform : Prop :=
  ∀ (n : Nat) (cells : List Bool), cells.length = 8 * n →
    (byteView n cells).flatMap byteBits = cells
      ∧ ∀ k j, k < n → j < 8 → ∃ b, (byteView n cells)[k]? = some b ∧ cells[8 * k + j]? = some (b.getLsbD (7 - j))

/-! ### The operations -/

/-- INIT (rule R162): waits, starts the loop, or raises InitFailure. -/
def Obligations.InitFollowsTheVerdict : Prop :=
  ∀ s : State,
    (s.env.pins.busInitDone = false → exec .init s = .next { s with core.regs.phase := .init })
      ∧ (s.env.pins.busInitDone = true → s.env.pins.busInitOk = true →
        exec .init s = .next { s with core.regs.phase := .capture })
      ∧ (s.env.pins.busInitDone = true → s.env.pins.busInitOk = false →
          exec .init s = .next { s with
            core.regs.fatal := true
            core.regs.faultCode := .initFailure
            core.regs.phase := .halt
            core.trace := s.core.trace ++ [.fatal .initFailure] })

/-- CAPTURE (rule R163). -/
def Obligations.CaptureLatchesTheClock : Prop :=
  ∀ s : State, exec .capture s = .next { s with core.regs.tstart := s.env.pins.now, core.regs.phase := .convert }

/-- CONVERT (rule R164), with the Diag event where the diagnostic output is built (rule R31). -/
def Obligations.ConvertWritesTheColourOfTheHue : Prop :=
  ∀ s : State,
    exec .convert s = .next { s with
        core.regs.r := (convert s.core.regs.hue s.build.sat s.build.val).r
        core.regs.g := (convert s.core.regs.hue s.build.sat s.build.val).g
        core.regs.b := (convert s.core.regs.hue s.build.sat s.build.val).b
        core.regs.phase := .encode
        core.trace := if s.build.diagPresent then s.core.trace ++ [.diag s.core.regs.hue] else s.core.trace
        core.diag := if s.build.diagPresent then some s.core.regs.hue else s.core.diag }
      ∧ (s.build.sat = 0 → convert s.core.regs.hue s.build.sat s.build.val = ⟨s.build.val, s.build.val, s.build.val⟩)

/-- ENCODE (rules R51, R165): the whole frame buffer takes the frame of the colour, and nothing else changes. -/
def Obligations.EncodeFillsTheFrameBuffer : Prop :=
  ∀ s : State, buildRefusal s.build = none →
    ∃ t, exec .encode s = .next t
      ∧ (∀ k, k < s.build.frameCells →
          ∃ c, (encodeFrame s.build [s.core.regs.rgb])[k]? = some c ∧ t.core.regs.framebuf.readCell k = some c)
      ∧ (∀ k, s.build.frameCells ≤ k → t.core.regs.framebuf.readCell k = s.core.regs.framebuf.readCell k)
      ∧ t.core.regs.framebuf.read 0 s.build.frameCells = some (encodeFrame s.build [s.core.regs.rgb])
      ∧ (s.core.regs.framebuf.wf → t.core.regs.framebuf.wf)
      ∧ t = { s with core.regs.framebuf := t.core.regs.framebuf, core.regs.phase := .transmit }

/-- TRANSMIT, rejected on entry (rules R143, R144; that the bus has accepted nothing yet is log 6): nothing is driven, TXERR is
1, the frame is dropped. -/
def Obligations.RejectedTransferDrivesNothing : Prop :=
  ∀ s : State, s.env.granted = false → s.core.regs.txidx = 0 → s.env.pins.busReject = true →
    exec .transmit s = .next { s with
      core.regs.txerr := true
      core.regs.phase := .advance
      core.trace := s.core.trace ++ [.frameDropped s.core.regs.tstart] }

/-- TRANSMIT, one cell of an accepted transfer (rules R143, R145): a pulse drives the cell at TXIDX. The answer of the
bus is read on entry only; that the first cell goes out in the entry step itself is log 7. -/
def Obligations.CellPulseDrivesTheNextCell : Prop :=
  ∀ (s : State) (c : Bool), (s.env.granted = true ∨ 0 < s.core.regs.txidx ∨ s.env.pins.busReject = false) →
    s.core.regs.txidx < s.build.frameCells → s.env.pins.cellEn = true →
      s.core.regs.framebuf.readCell s.core.regs.txidx = some c →
    exec .transmit s = .next { s with
      core.regs.line := c
      core.regs.txidx := s.core.regs.txidx + 1
      core.regs.phase := .transmit
      core.sclk := s.core.sclk ++ [true, false]
      core.mosi := s.core.mosi ++ [c] }

/-- TRANSMIT without a pulse (rules R43, R148): the registers stay as they are. -/
def Obligations.TransmitWaitsWithoutAPulse : Prop :=
  ∀ s : State, (s.env.granted = true ∨ 0 < s.core.regs.txidx ∨ s.env.pins.busReject = false) →
    s.core.regs.txidx < s.build.frameCells → s.env.pins.cellEn = false →
    exec .transmit s = .next { s with core.regs.phase := .transmit }

/-- TRANSMIT, all cells driven (rule R146); the line is low already when the frame ends with a gap. -/
def Obligations.CompletedTransferIsRecorded : Prop :=
  ∀ (s : State) (cells : List Bool), (s.env.granted = true ∨ 0 < s.core.regs.txidx ∨ s.env.pins.busReject = false) →
    s.core.regs.txidx = s.build.frameCells → s.core.regs.framebuf.read 0 s.build.frameCells = some cells →
    exec .transmit s = .next { s with
        core.regs.line := false
        core.regs.txidx := 0
        core.regs.txerr := false
        core.regs.phase := .advance
        core.trace := s.core.trace ++ [.frameSent cells s.core.regs.tstart] }
      ∧ (MachineInv s → s.core.regs.phase = .transmit → 0 < s.build.resetCells → s.core.regs.line = false)

/-- ADVANCE (rule R167). -/
def Obligations.AdvanceAddsTheHueStep : Prop :=
  ∀ s : State, ∃ hue : U8, hue.toNat = (s.core.regs.hue.toNat + s.build.hueStep.toNat) % 256
    ∧ exec .advance s = .next { s with core.regs.hue := hue, core.regs.phase := .pace }

/-- PACE (rule R168): `elapsed` is the difference modulo 2^64; the loop goes on when it reaches the period. -/
def Obligations.PaceComparesTheElapsedTime : Prop :=
  ∀ s : State,
    let elapsed := (s.env.pins.now.toNat + 2 ^ 64 - s.core.regs.tstart.toNat) % 2 ^ 64
    (s.build.framePeriodTicks ≤ elapsed → exec .pace s = .next { s with core.regs.phase := .capture })
      ∧ (elapsed < s.build.framePeriodTicks → exec .pace s = .next { s with core.regs.phase := .pace })

/-- HALT (rule R169): nothing changes, InitFailure in INIT is the only way in, and reset the only way out; in HALT the
outputs show the fault, the line is low, the hue is HUE_INIT and no frame was sent. -/
def Obligations.HaltIsLeftByResetOnly : Prop :=
  (∀ s : State, exec .halt s = .next { s with core.regs.phase := .halt })
    ∧ (∀ s t : State, step s = .next t → s.core.regs.phase = .halt → s.env.pins.rst = false →
        t.core.regs = s.core.regs ∧ t.core.trace = s.core.trace)
    ∧ (∀ s t : State, step s = .next t → t.core.regs.phase = .halt → s.core.regs.phase ≠ .halt →
        s.core.regs.phase = .init ∧ s.env.pins.busInitDone = true ∧ s.env.pins.busInitOk = false
          ∧ s.env.pins.rst = false)
    ∧ (∀ s : State, MachineInv s → s.core.regs.phase = .halt →
        s.core.regs.fatal = true ∧ s.core.regs.faultCode.code = 0b01 ∧ s.core.regs.line = false
          ∧ s.core.regs.hue = s.build.hueInit
          ∧ framesDone s.core.trace = 0)

/-- InitFailure (rules R190, R191, R197), through its code and through INIT: FATAL and FAULT_CODE, the event, HALT,
nothing else; only INIT raises it, and only reset undoes it; the line is low and no frame was sent. That the code is a row
with the effect of its failure is the model's choice (log 12). -/
def Obligations.InitFailureHaltsTheCore : Prop :=
  (∀ s : State, exec .faultInitFailure s = .next { s with
      core.regs.fatal := true
      core.regs.faultCode := .initFailure
      core.regs.phase := .halt
      core.trace := s.core.trace ++ [.fatal .initFailure] })
    ∧ (∀ s : State, s.env.pins.busInitDone = true → s.env.pins.busInitOk = false →
        exec .init s = exec .faultInitFailure s)
    ∧ (∀ s t : State, step s = .next t → s.core.regs.fatal = false → t.core.regs.fatal = true →
        s.core.regs.phase = .init ∧ s.env.pins.busInitDone = true ∧ s.env.pins.busInitOk = false
          ∧ t.core.regs.faultCode.code = 0b01)
    ∧ (∀ s t : State, step s = .next t → s.core.regs.fatal = true → s.env.pins.rst = false → t.core.regs.fatal = true)
    ∧ (∀ s : State, MachineInv s → s.core.regs.fatal = true → s.core.regs.line = false ∧ framesDone s.core.trace = 0)

/-- TransportError (rules R190, R192, R197), through its code and through TRANSMIT: TXERR, the event, ADVANCE, and no
register of the rule's list changes. That the code is a row with the effect of its failure is the model's choice (log
12). -/
def Obligations.TransportErrorDropsTheFrame : Prop :=
  (∀ s : State, exec .txerrTransportError s = .next { s with
      core.regs.txerr := true
      core.regs.phase := .advance
      core.trace := s.core.trace ++ [.frameDropped s.core.regs.tstart] })
    ∧ (∀ s : State, s.env.granted = false → s.core.regs.txidx = 0 → s.env.pins.busReject = true →
        exec .transmit s = exec .txerrTransportError s)
    ∧ (∀ s t : State, step s = .next t → s.core.regs.txerr = false → t.core.regs.txerr = true →
        s.core.regs.phase = .transmit ∧ s.env.pins.busReject = true ∧ t.core.regs.phase = .advance
          ∧ t.core.regs = { s.core.regs with txerr := true, phase := .advance })

/-! ### The rows that are codes of a unit (the model's reading of these rows: log 12 to 16) -/

/-- The seven arms of the converter as rows (rules R102, R108; that an arm runs on any HSV input is the model's choice,
log 12 and 13): the colour of the arm, the Diag event, and ENCODE next. -/
def Obligations.ConverterArmRowsWriteTheirColour : Prop :=
  ∀ s : State,
    let done := fun (c : RGB) => ({ s with
      core.regs.r := c.r
      core.regs.g := c.g
      core.regs.b := c.b
      core.regs.phase := .encode
      core.trace := if s.build.diagPresent then s.core.trace ++ [.diag s.core.regs.hue] else s.core.trace
      core.diag := if s.build.diagPresent then some s.core.regs.hue else s.core.diag } : State)
    (∀ h v : U8, exec (.convertAchromatic h v) s = .next (done ⟨v, v, v⟩))
      ∧ ∃ p q t : U8, p.toNat = termP s.build.sat s.build.val
        ∧ q.toNat = termQ s.core.regs.hue s.build.sat s.build.val
        ∧ t.toNat = termT s.core.regs.hue s.build.sat s.build.val
        ∧ exec .convertRegion0 s = .next (done ⟨s.build.val, t, p⟩)
        ∧ exec .convertRegion1 s = .next (done ⟨q, s.build.val, p⟩)
        ∧ exec .convertRegion2 s = .next (done ⟨p, s.build.val, t⟩)
        ∧ exec .convertRegion3 s = .next (done ⟨p, q, s.build.val⟩)
        ∧ exec .convertRegion4 s = .next (done ⟨t, p, s.build.val⟩)
        ∧ exec .convertRegion5 s = .next (done ⟨s.build.val, p, q⟩)

/-- SYM0, SYM1 and GAPCELL (rules R74, R124, R126; as rows, log 12 and 14; the patterns are the build's, log 30): where
the group fits, its cells go out one after the other and the line ends low; where it does not, there is no such cell. -/
def Obligations.SymbolRowsDriveTheirCells : Prop :=
  ∀ s : State, s.build.ok = true →
    let driven := fun (cells : List Bool) => ({ s with
      core.regs.line := false
      core.regs.txidx := s.core.regs.txidx + s.build.nCell
      core.regs.phase := .transmit
      core.sclk := s.core.sclk ++ (List.replicate s.build.nCell [true, false]).flatten
      core.mosi := s.core.mosi ++ cells } : State)
    (s.core.regs.txidx + s.build.nCell ≤ s.build.frameCells →
        exec .sym0 s = .next (driven s.build.pat0) ∧ exec .sym1 s = .next (driven s.build.pat1)
          ∧ exec .gapcell s = .next (driven (List.replicate s.build.nCell false)))
      ∧ (s.build.frameCells < s.core.regs.txidx + s.build.nCell →
          exec .sym0 s = .fault .cellIndexOutOfRange ∧ exec .sym1 s = .fault .cellIndexOutOfRange
            ∧ exec .gapcell s = .fault .cellIndexOutOfRange)

/-- The five bus bytes (rule R76; as rows, log 12 and 14; the same bytes in every build, log 30): eight cells, bit 7 first, and
the line ends low. -/
def Obligations.BusByteRowsDriveTheirCells : Prop :=
  ∀ s : State,
    let driven := fun (cells : List Bool) => ({ s with
      core.regs.line := false
      core.regs.txidx := s.core.regs.txidx + 8
      core.regs.phase := .transmit
      core.sclk := s.core.sclk ++ [true, false, true, false, true, false, true, false, true, false, true, false, true, false,
        true, false]
      core.mosi := s.core.mosi ++ cells } : State)
    (s.core.regs.txidx + 8 ≤ s.build.frameCells →
        exec .bb00 s = .next (driven [true, false, false, false, true, false, false, false])
          ∧ exec .bb01 s = .next (driven [true, false, false, false, true, true, true, false])
          ∧ exec .bb10 s = .next (driven [true, true, true, false, true, false, false, false])
          ∧ exec .bb11 s = .next (driven [true, true, true, false, true, true, true, false])
          ∧ exec .bbgap s = .next (driven [false, false, false, false, false, false, false, false]))
      ∧ (s.build.frameCells < s.core.regs.txidx + 8 →
          ∀ i ∈ [Instr.bb00, .bb01, .bb10, .bb11, .bbgap], exec i s = .fault .cellIndexOutOfRange)

/-- A group of cells as one row is its cells as that many steps of TRANSMIT (rules R76, R145; log 12, 30): wherever the frame
buffer holds the group at TXIDX and a pulse comes in every step, the run ends with the registers and the trace that the
row gives. -/
def Obligations.CellGroupIsItsTransmitSteps : Prop :=
  ∀ (s : State) (i : Instr) (cells : List Bool), buildRefusal s.build = none →
    (i, cells) ∈ [(Instr.sym0, s.build.pat0), (.sym1, s.build.pat1),
      (.gapcell, List.replicate s.build.nCell false), (.bb00, byteBits 0x88), (.bb01, byteBits 0x8E),
      (.bb10, byteBits 0xE8), (.bb11, byteBits 0xEE), (.bbgap, byteBits 0x00)] →
    s.core.regs.phase = .transmit → s.env.granted = true → s.core.regs.txidx + cells.length ≤ s.build.frameCells →
    (∀ k, k < cells.length → s.core.regs.framebuf.readCell (s.core.regs.txidx + k) = cells[k]?) →
    NoReset s cells.length → (∀ k, k < cells.length → (pinsAt s k).cellEn = true) →
    ∃ t u, runSteps cells.length s = .next t ∧ exec i s = .next u
      ∧ t.core.regs = u.core.regs ∧ t.core.trace = u.core.trace ∧ t.env.granted = u.env.granted

/-- TXERR.OK is the atomic form of a transfer (rule R150; as a row, log 12): the frame is sent and the line is low; and it
is what TRANSMIT does once all cells are driven. -/
def Obligations.TxerrOkIsTheAtomicTransfer : Prop :=
  (∀ (s : State) (cells : List Bool), s.core.regs.framebuf.read 0 s.build.frameCells = some cells →
      exec .txerrOk s = .next { s with
        core.regs.line := false
        core.regs.txidx := 0
        core.regs.txerr := false
        core.regs.phase := .advance
        core.trace := s.core.trace ++ [.frameSent cells s.core.regs.tstart] })
    ∧ (∀ s : State, s.env.granted = true ∨ 0 < s.core.regs.txidx ∨ s.env.pins.busReject = false →
        s.core.regs.txidx = s.build.frameCells → exec .transmit s = exec .txerrOk s)

/-- FAULT.NONE raises nothing (rule R86; as a row, log 15), and the reserved codes are refused: reserved, never produced
(rules R86, R88 (d)). -/
def Obligations.FaultCodesRaiseOrRefuse : Prop :=
  ∀ s : State, exec .faultNone s = .next s
    ∧ exec .faultReserved2 s = .refused .reservedFaultCode ∧ exec .faultReserved3 s = .refused .reservedFaultCode

/-- What no row changes (rules R11, R20 to R30): each register is changed only by the rows it belongs to, and no row
changes the build or the environment (the bus's answer included: log 6). -/
def Obligations.RowsChangeOnlyTheirRegisters : Prop :=
  ∀ (i : Instr) (s t : State), exec i s = .next t →
    (i ≠ .advance → t.core.regs.hue = s.core.regs.hue)
      ∧ (i ≠ .convert → i.format ≠ .hsv → i.format ≠ .region → t.core.regs.rgb = s.core.regs.rgb
        ∧ t.core.diag = s.core.diag)
      ∧ (i ≠ .capture → t.core.regs.tstart = s.core.regs.tstart)
      ∧ (i ≠ .encode → ∀ a, t.core.regs.framebuf.readCell a = s.core.regs.framebuf.readCell a)
      ∧ (i ≠ .transmit → i ≠ .txerrOk → i.format ≠ .sym → i.format ≠ .busbyte →
          t.core.regs.line = s.core.regs.line ∧ t.core.regs.txidx = s.core.regs.txidx ∧ t.core.sclk = s.core.sclk
            ∧ t.core.mosi = s.core.mosi)
      ∧ (i ≠ .transmit → i.format ≠ .txerr → t.core.regs.txerr = s.core.regs.txerr)
      ∧ (i ≠ .init → i ≠ .faultInitFailure → t.core.regs.fatal = s.core.regs.fatal
        ∧ t.core.regs.faultCode = s.core.regs.faultCode)
      ∧ t.build = s.build ∧ t.env = s.env

/-! ### The machine -/

/-- A step runs the operation decoded from PHASE (rules R26, R84, R161) with the build as an argument (rule R32): what it adds
is that the strobes of the last step fall first (log 11), and that the environment takes its turn after, which moves the pins
on (log 4) and remembers the bus's answer while the core stays in TRANSMIT (log 6). -/
def Obligations.StepRunsTheDecodedOperation : Prop :=
  ∀ (s : State) (i : Instr), buildRefusal s.build = none → s.env.pins.rst = false →
    decode .phase (fetchCode s.core) = .ok i →
    let before := ({ s with core.sclk := [false], core.mosi := [], core.diag := none } : State)
    i.format = .phase
      ∧ (∀ u, exec i before = .next u →
          coreStep s.build s.env s.core = .next u.core
            ∧ step s = .next {
                build := s.build
                core := u.core
                env := {
                  pins := s.env.script.headD s.env.pins
                  script := s.env.script.tail
                  granted := decide (s.core.regs.phase = .transmit ∧ u.core.regs.phase = .transmit)
                  epoch := s.env.epoch } })
      ∧ (∀ r, exec i before = .fault r → step s = .fault r)
      ∧ (∀ r, exec i before = .refused r → step s = .refused r)

/-- A PHASE code placed for the next step is the operation the next step runs (the codes of rule R84). That a bare 8-bit number
below 8 is read as a PHASE code is the model's choice (log 17: rule R70's 8-bit format is BUSBYTE, where 0x00 is BBGAP), and so
is what is placed for it (log 18). -/
def Obligations.PlacedPhaseCodeRunsNext : Prop :=
  ∀ (s : State) (p : Phase), buildRefusal s.build = none →
    let placed := ({ s with core.regs.phase := p, env.pins.rst := false } : State)
    decodeTableWord 8 p.code.toNat = some p.operation
      ∧ step (s.withFetchWord 8 p.code.toNat)
          = placed.afterCore (coreOutcome (exec p.operation
              { placed with core.sclk := [false], core.mosi := [], core.diag := none }))

/-- Right after reset (rules R45, R84, R86): the values the spec gives, and a frame buffer in which no cell holds a value.
What R, G, B and TSTART hold is nothing a claim can use (log 2). -/
def Obligations.ResetLeavesTheSpecValues : Prop :=
  State.reset.build = Config.default ∧ State.reset.core.regs.phase.code = 0b000
    ∧ State.reset.core.regs.hue = 0 ∧ State.reset.core.regs.txidx = 0 ∧ State.reset.core.regs.txerr = false
    ∧ State.reset.core.regs.fatal = false ∧ State.reset.core.regs.faultCode.code = 0b00
      ∧ State.reset.core.regs.line = false
    ∧ State.reset.core.sclk = [false] ∧ State.reset.core.diag = none ∧ State.reset.core.trace = []
    ∧ State.reset.core.regs.framebuf.wf ∧ ∀ a, State.reset.core.regs.framebuf.readCell a = none

/-- Reset wins over every operation (rules R196, R220): the state becomes that of rule R45, from any state. The trace
restarts empty unless the reset cut a transfer (rule R222). -/
def Obligations.ResetInputWinsOverEveryOperation : Prop :=
  ∀ s : State, buildRefusal s.build = none → s.env.pins.rst = true →
    ∃ t, step s = .next t ∧ t.core.regs.phase = .init ∧ t.core.regs.hue = s.build.hueInit ∧ t.core.regs.txidx = 0
      ∧ t.core.regs.txerr = false ∧ t.core.regs.fatal = false ∧ t.core.regs.faultCode = .none ∧ t.core.regs.line = false
      ∧ (∀ a, t.core.regs.framebuf.readCell a = none) ∧ t.core.sclk = [false] ∧ t.core.diag = none ∧ t.build = s.build
      ∧ (¬ (s.core.regs.phase = .transmit ∧ 0 < s.core.regs.txidx ∧ s.core.regs.txidx < s.build.frameCells) →
        t.core.trace = [])

/-- Reset in the middle of a transfer (rule R222): the line is low at once, and the trace records the cells driven as
FrameAborted, and neither FrameSent nor FrameDropped. That this one event is the whole trace after the reset is the model's
reading (log 8). -/
def Obligations.ResetMidTransferAbortsTheFrame : Prop :=
  ∀ s : State, MachineInv s → s.env.pins.rst = true → s.core.regs.phase = .transmit →
    0 < s.core.regs.txidx → s.core.regs.txidx < s.build.frameCells →
    ∃ t, step s = .next t ∧ t.core.regs.line = false ∧ t.core.regs.phase = .init
      ∧ t.core.trace = [.frameAborted ((encodeFrame s.build [s.core.regs.rgb]).take s.core.regs.txidx)]

/-- The builds the spec gives no machine for stop by name (rules R56, R131, R132; U2, U15, U17; log 19), and so does one whose
CH_ORDER does not name each of the three bytes once (rules R9, R53; that this is a refusal is log 19). -/
def Obligations.BuildsWithoutAMachineAreRefused : Prop :=
  ∀ s : State,
    ((s.build.nCell < 2 ∨ s.build.patternOk s.build.pat0 = false ∨ s.build.patternOk s.build.pat1 = false
        ∨ s.build.pat1.count true ≤ s.build.pat0.count true
        ∨ s.build.chOrderOk = false ∨ (s.build.byteBus = true ∧ s.build.frameCells % 8 ≠ 0)) →
          step s = .refused .parameterSet)
      ∧ (s.build.ok = true → s.build.npix ≠ 1 → step s = .refused .schedulerNeedsOnePixel)

/-- The sequencer takes only the transitions of rule R26, with the codes 0 to 7; reset leads to INIT from every phase. -/
def Obligations.PhaseTakesOnlyItsTransitions : Prop :=
  (∀ s t : State, step s = .next t →
      if s.env.pins.rst then t.core.regs.phase = .init
      else t.core.regs.phase ∈ phaseSuccessors s.core.regs.phase
        ∧ (s.core.regs.phase = .init → (t.core.regs.phase = .init ↔ busInitVerdict s.env = .pending)
            ∧ (t.core.regs.phase = .capture ↔ busInitVerdict s.env = .ok)
            ∧ (t.core.regs.phase = .halt ↔ busInitVerdict s.env = .fail))
        ∧ (s.core.regs.phase = .transmit → (t.core.regs.phase = .advance ↔
            (s.env.granted = false ∧ s.core.regs.txidx = 0 ∧ s.env.pins.busReject = true)
              ∨ s.core.regs.txidx = s.build.frameCells))
        ∧ (s.core.regs.phase = .pace → (t.core.regs.phase = .capture ↔
            periodReached s.build s.env.pins.now s.core.regs.tstart = true)))
    ∧ [Phase.init, .capture, .convert, .encode, .transmit, .advance, .pace, .halt].map (fun p => p.code.toNat)
        = [0, 1, 2, 3, 4, 5, 6, 7]

/-- One writer per register (rule R20, column "written by"; rules R21 to R30): a step without reset changes a register
only in the phase that writes it, and never the build (rule R11). -/
def Obligations.EachRegisterHasItsOneWriter : Prop :=
  ∀ s t : State, step s = .next t →
    t.build = s.build
      ∧ (s.env.pins.rst = false →
          (t.core.regs.hue ≠ s.core.regs.hue → s.core.regs.phase = .advance)
            ∧ (t.core.regs.rgb ≠ s.core.regs.rgb → s.core.regs.phase = .convert)
            ∧ (t.core.regs.tstart ≠ s.core.regs.tstart → s.core.regs.phase = .capture)
            ∧ (t.core.regs.framebuf ≠ s.core.regs.framebuf → s.core.regs.phase = .encode)
            ∧ (t.core.regs.txidx ≠ s.core.regs.txidx → s.core.regs.phase = .transmit)
            ∧ (t.core.regs.txerr ≠ s.core.regs.txerr → s.core.regs.phase = .transmit)
            ∧ (t.core.regs.line ≠ s.core.regs.line → s.core.regs.phase = .transmit)
            ∧ (t.core.regs.fatal ≠ s.core.regs.fatal ∨ t.core.regs.faultCode ≠ s.core.regs.faultCode →
              s.core.regs.phase = .init))

/-- The strobes (rules R30, R31, R145): `diag_valid` is 1 after CONVERT only, in a build that has it, with the hue of the
frame; exactly when a step drives a cell, `sclk` has pulsed once and `mosi` has held that cell, and both rest otherwise. That
the levels of one step are kept as lists, and fall at the next step, is the model's choice (log 10, 11). -/
def Obligations.OutputsStrobeOnceAStep : Prop :=
  ∀ s t : State, step s = .next t →
    t.core.diag = (if s.env.pins.rst = false ∧ s.core.regs.phase = .convert ∧ s.build.diagPresent = true
        then some s.core.regs.hue else none)
      ∧ (if s.env.pins.rst = false ∧ s.core.regs.phase = .transmit
            ∧ ¬ (s.core.regs.txidx = 0 ∧ s.env.granted = false ∧ s.env.pins.busReject = true)
            ∧ s.core.regs.txidx < s.build.frameCells ∧ s.env.pins.cellEn = true then
          ∃ c, t.core.mosi = [c] ∧ t.core.sclk = [false, true, false] ∧ t.core.regs.line = c
            ∧ s.core.regs.framebuf.readCell s.core.regs.txidx = some c
            ∧ t.core.regs.txidx = s.core.regs.txidx + 1
        else t.core.mosi = [] ∧ t.core.sclk = [false])

/-- An input that a step does not poll is not seen (rule R195): in two settings of the environment that agree on what the step
polls, the core takes the same step. -/
def Obligations.UnpolledInputsAreNotSeen : Prop :=
  ∀ (build : Config) (c : CoreState) (e f : Env), e.pins.rst = false → f.pins.rst = false → PolledAlike c e f →
    coreStep build e c = coreStep build f c

/-- Waiting is no failure (rule R194): while the environment withholds its answer the registers and the trace stay as they
are, and the core is not halted. -/
def Obligations.WaitingChangesNothing : Prop :=
  ∀ s : State, buildRefusal s.build = none → s.env.pins.rst = false → Waiting s →
    ¬ Halted s ∧ ∃ t, step s = .next t ∧ t.core.regs = s.core.regs ∧ t.core.trace = s.core.trace

/-- A transfer that receives no pulse stalls for ever (rule R148): however many steps, the core stays in TRANSMIT with
every register as it was, neither failed nor halted. -/
def Obligations.TransferWithoutPulsesStalls : Prop :=
  ∀ (n : Nat) (s : State), buildRefusal s.build = none → s.core.regs.phase = .transmit →
    (s.env.granted = true ∨ 0 < s.core.regs.txidx ∨ s.env.pins.busReject = false) →
      s.core.regs.txidx < s.build.frameCells →
    NoReset s n → (∀ j, j < n → (pinsAt s j).cellEn = false) →
    ∃ t, runSteps n s = .next t ∧ t.core.regs = s.core.regs ∧ t.core.trace = s.core.trace

/-- Under BusLive an accepted transfer completes as the atomic form does (rules R43, R145 to R147, R150): once the pulses
of the remaining cells have come, at whatever steps, the whole frame is recorded as sent with this iteration's TSTART. -/
def Obligations.AcceptedTransferCompletesUnderBusLive : Prop :=
  ∀ (n : Nat) (s : State), MachineInv s → s.core.regs.phase = .transmit →
    (s.env.granted = true ∨ s.env.pins.busReject = false) → NoReset s (n + 1) →
    s.build.frameCells ≤ s.core.regs.txidx + pulsesIn s n →
    ∃ k t, k ≤ n + 1 ∧ runSteps k s = .next t
      ∧ t.core.regs = { s.core.regs with line := false, txidx := 0, txerr := false, phase := .advance }
      ∧ t.core.trace = s.core.trace ++ [.frameSent (encodeFrame s.build [s.core.regs.rgb]) s.core.regs.tstart]

/-- PACE spins and is left under the two premises on the clock (rules R40 (a) and (b), R168, R235; log 21): while no read shows
the whole period elapsed the core stays in PACE with every register as it was; under a clock that never falls and passes every
bound, the first read that shows it comes, after finitely many steps, and the step of that read ends in CAPTURE. -/
def Obligations.PaceIsLeftUnderClockProgress : Prop :=
  (∀ (n : Nat) (s : State), buildRefusal s.build = none → s.core.regs.phase = .pace → NoReset s n →
      (∀ j, j < n → periodReached s.build (pinsAt s j).now s.core.regs.tstart = false) →
      ∃ t, runSteps n s = .next t ∧ t.core.regs = s.core.regs ∧ t.core.trace = s.core.trace)
    ∧ (∀ s : State, buildRefusal s.build = none → s.core.regs.phase = .pace → (∀ n, NoReset s n) →
        ClockMonotone s → ClockProgress s → s.core.regs.tstart.toNat ≤ s.env.pins.now.toNat →
        s.core.regs.tstart.toNat + s.build.framePeriodTicks < 2 ^ 64 →
        ∃ k t, (∀ j, j < k → (pinsAt s j).now.toNat < s.core.regs.tstart.toNat + s.build.framePeriodTicks)
          ∧ s.core.regs.tstart.toNat + s.build.framePeriodTicks ≤ (pinsAt s k).now.toNat
          ∧ runSteps (k + 1) s = .next t
          ∧ t.core.regs = { s.core.regs with phase := .capture } ∧ t.core.trace = s.core.trace)

/-- The invariant of the machine is kept by every step: the build has a machine (log 19), halted exactly when FATAL is 1
(rules R27, R29), TXIDX and LINE follow the transfer and the line rests low (rules R25, R30), the frame buffer is in its
canonical form, each operation finds what the one before it left (rule R61), and the hue is that of its frame (rule
R170). -/
def Obligations.EveryStepKeepsTheMachineInvariant : Prop :=
  ∀ s t : State, MachineInv s → step s = .next t → MachineInv t

/-- Right after reset all invariants hold. -/
def Obligations.ResetMeetsTheInvariants : Prop :=
  MachineInv State.reset ∧ TraceInv [] State.reset ∧ PeriodInv State.reset

/-- No logic errors (rules R193, R194): from every state of the invariant, every step completes, with neither a fault nor
a refusal. -/
def Obligations.EveryStepCompletesFromTheInvariant : Prop :=
  ∀ s : State, MachineInv s → ∃ t, step s = .next t

/-- The hue of frame `k` is `(HUE_INIT + k * HUE_STEP) mod 256` at CONVERT (rule R170), where `k` counts the frames sent or
dropped since reset: every step keeps it whatever the bus and the clock answer, on its own and without the rest of the
machine's invariant. In the default build frame `k` is drawn with hue `2k mod 256` and that hue's colour. -/
def Obligations.EveryStepKeepsTheHueOfItsFrame : Prop :=
  (∀ s t : State, HueInv s → step s = .next t → HueInv t)
    ∧ (∀ s : State, HueInv s → s.core.regs.phase = .convert →
        s.core.regs.hue.toNat = (s.build.hueInit.toNat + framesDone s.core.trace * s.build.hueStep.toNat) % 256)
    ∧ (∀ s : State, HueInv s → s.core.regs.phase = .convert → s.build = Config.default →
        s.core.regs.hue.toNat = 2 * framesDone s.core.trace % 256
          ∧ ∃ t, exec .convert s = .next t
            ∧ t.core.regs.rgb = convert (BitVec.ofNat 8 (2 * framesDone s.core.trace)) 255 100)

/-- The hue sequence has period `256 / gcd(HUE_STEP, 256)` and no shorter one (rule R171), 128 in the default build, where
only even hues occur. -/
def Obligations.HueSequenceHasItsPeriod : Prop :=
  (∀ (build : Config) (k : Nat),
      hueOfFrame build (k + 256 / Nat.gcd build.hueStep.toNat 256) = hueOfFrame build k)
    ∧ (∀ (build : Config) (m : Nat), 0 < m → (∀ k, hueOfFrame build (k + m) = hueOfFrame build k) →
        256 / Nat.gcd build.hueStep.toNat 256 ≤ m)
    ∧ 256 / Nat.gcd Config.default.hueStep.toNat 256 = 128
    ∧ (∀ k, (hueOfFrame Config.default k).toNat = 2 * k % 256)

/-- The shape of the trace (rules R31, R174, U20): for each frame, the Diag of its hue where the diagnostic output is built,
and then the frame sent, with the cells of that hue's colour, or dropped, each with the timestamp that CAPTURE read at the
start of that frame; Fatal alone after a failed initialisation. Every step keeps it, in every build. What stands before the
first frame after a reset in the middle of a transfer is log 8. -/
def Obligations.EveryStepKeepsTheTraceShape : Prop :=
  ∀ (captured : List Stamp) (s t : State), MachineInv s → TraceInv captured s → step s = .next t →
    TraceInv (capturedAfter captured s) t

/-- The frame period (rules R40 (a), R172): under a monotone clock the timestamps of the frames lie at least
FRAME_PERIOD_TICKS apart, and a CAPTURE after a frame reads at least its timestamp plus the period. Every step keeps it. -/
def Obligations.EveryStepKeepsFramesAPeriodApart : Prop :=
  (∀ s t : State, PeriodInv s → step s = .next t → PeriodInv t)
    ∧ (∀ s t u : State, step s = .next t → s.env.pins.rst = false → s.core.regs.phase = .pace →
      t.core.regs.phase = .capture →
        step t = .next u → t.env.pins.rst = false → ClockMonotone s → s.core.regs.tstart.toNat ≤ s.env.pins.now.toNat →
        s.core.regs.tstart.toNat + s.build.framePeriodTicks ≤ u.core.regs.tstart.toNat)
end

