-- ==== Sys2Proof/Laws/State.lean ====
section
/-! SUPPORT. One lemma for each field of the core, the environment and the closed system after each named update, so that no
proof unfolds a record update. -/

namespace Sys2Proof.Machine

@[simp] theorem setTxerr_regs (v : Bool) (c : CoreState) : (setTxerr v c).regs = { c.regs with txerr := v } := rfl
@[simp] theorem setTxerr_sclk (v : Bool) (c : CoreState) : (setTxerr v c).sclk = c.sclk := rfl
@[simp] theorem setTxerr_mosi (v : Bool) (c : CoreState) : (setTxerr v c).mosi = c.mosi := rfl
@[simp] theorem setTxerr_diag (v : Bool) (c : CoreState) : (setTxerr v c).diag = c.diag := rfl
@[simp] theorem setTxerr_trace (v : Bool) (c : CoreState) : (setTxerr v c).trace = c.trace := rfl

@[simp] theorem setFatal_regs (code : FaultCode) (c : CoreState) : (setFatal code c).regs = { c.regs with fatal := true, faultCode := code } := rfl
@[simp] theorem setFatal_sclk (code : FaultCode) (c : CoreState) : (setFatal code c).sclk = c.sclk := rfl
@[simp] theorem setFatal_mosi (code : FaultCode) (c : CoreState) : (setFatal code c).mosi = c.mosi := rfl
@[simp] theorem setFatal_diag (code : FaultCode) (c : CoreState) : (setFatal code c).diag = c.diag := rfl
@[simp] theorem setFatal_trace (code : FaultCode) (c : CoreState) : (setFatal code c).trace = c.trace := rfl

@[simp] theorem emit_regs (e : Event) (c : CoreState) : (emit e c).regs = c.regs := rfl
@[simp] theorem emit_sclk (e : Event) (c : CoreState) : (emit e c).sclk = c.sclk := rfl
@[simp] theorem emit_mosi (e : Event) (c : CoreState) : (emit e c).mosi = c.mosi := rfl
@[simp] theorem emit_diag (e : Event) (c : CoreState) : (emit e c).diag = c.diag := rfl
@[simp] theorem emit_trace (e : Event) (c : CoreState) : (emit e c).trace = c.trace ++ [e] := rfl

@[simp] theorem raise_initFailure_regs (c : CoreState) : (raise .initFailure c).regs = { c.regs with fatal := true, faultCode := .initFailure, phase := .halt } := rfl
@[simp] theorem raise_initFailure_sclk (c : CoreState) : (raise .initFailure c).sclk = c.sclk := rfl
@[simp] theorem raise_initFailure_mosi (c : CoreState) : (raise .initFailure c).mosi = c.mosi := rfl
@[simp] theorem raise_initFailure_diag (c : CoreState) : (raise .initFailure c).diag = c.diag := rfl
@[simp] theorem raise_initFailure_trace (c : CoreState) : (raise .initFailure c).trace = c.trace ++ [.fatal .initFailure] := rfl

@[simp] theorem raise_transportError_regs (c : CoreState) : (raise .transportError c).regs = { c.regs with txerr := true, phase := .advance } := rfl
@[simp] theorem raise_transportError_sclk (c : CoreState) : (raise .transportError c).sclk = c.sclk := rfl
@[simp] theorem raise_transportError_mosi (c : CoreState) : (raise .transportError c).mosi = c.mosi := rfl
@[simp] theorem raise_transportError_diag (c : CoreState) : (raise .transportError c).diag = c.diag := rfl
@[simp] theorem raise_transportError_trace (c : CoreState) : (raise .transportError c).trace = c.trace ++ [.frameDropped c.regs.tstart] := rfl

@[simp] theorem applyReset_regs (build : Config) (e : Env) (c : CoreState) : (applyReset build e c).regs = Regs.afterReset build (e.epoch + 1) := rfl
@[simp] theorem applyReset_sclk (build : Config) (e : Env) (c : CoreState) : (applyReset build e c).sclk = [false] := rfl
@[simp] theorem applyReset_mosi (build : Config) (e : Env) (c : CoreState) : (applyReset build e c).mosi = [] := rfl
@[simp] theorem applyReset_diag (build : Config) (e : Env) (c : CoreState) : (applyReset build e c).diag = none := rfl
@[simp] theorem applyReset_trace (build : Config) (e : Env) (c : CoreState) : (applyReset build e c).trace = resetTrace build c := rfl

@[simp] theorem strobesLow_regs (c : CoreState) : (strobesLow c).regs = c.regs := rfl
@[simp] theorem strobesLow_sclk (c : CoreState) : (strobesLow c).sclk = [false] := rfl
@[simp] theorem strobesLow_mosi (c : CoreState) : (strobesLow c).mosi = [] := rfl
@[simp] theorem strobesLow_diag (c : CoreState) : (strobesLow c).diag = none := rfl
@[simp] theorem strobesLow_trace (c : CoreState) : (strobesLow c).trace = c.trace := rfl

@[simp] theorem driveCell_regs (x : Bool) (c : CoreState) : (driveCell x c).regs = { c.regs with line := x, txidx := c.regs.txidx + 1, phase := .transmit } := rfl
@[simp] theorem driveCell_sclk (x : Bool) (c : CoreState) : (driveCell x c).sclk = c.sclk ++ [true, false] := rfl
@[simp] theorem driveCell_mosi (x : Bool) (c : CoreState) : (driveCell x c).mosi = c.mosi ++ [x] := rfl
@[simp] theorem driveCell_diag (x : Bool) (c : CoreState) : (driveCell x c).diag = c.diag := rfl
@[simp] theorem driveCell_trace (x : Bool) (c : CoreState) : (driveCell x c).trace = c.trace := rfl

@[simp] theorem finishConvert_regs (build : Config) (x : RGB) (c : CoreState) :
    (finishConvert build x c).regs = { c.regs with r := x.r, g := x.g, b := x.b, phase := .encode } := by
  unfold finishConvert showDiag
  split <;> rfl

@[simp] theorem finishConvert_sclk (build : Config) (x : RGB) (c : CoreState) :
    (finishConvert build x c).sclk = c.sclk := by
  unfold finishConvert showDiag
  split <;> rfl

@[simp] theorem finishConvert_mosi (build : Config) (x : RGB) (c : CoreState) :
    (finishConvert build x c).mosi = c.mosi := by
  unfold finishConvert showDiag
  split <;> rfl

@[simp] theorem finishConvert_diag (build : Config) (x : RGB) (c : CoreState) :
    (finishConvert build x c).diag = if build.diagPresent then some c.regs.hue else c.diag := by
  unfold finishConvert showDiag
  split <;> rfl

@[simp] theorem finishConvert_trace (build : Config) (x : RGB) (c : CoreState) :
    (finishConvert build x c).trace = if build.diagPresent then c.trace ++ [.diag c.regs.hue] else c.trace := by
  unfold finishConvert showDiag
  split <;> rfl

@[simp] theorem turn_pins (p q : Phase) (e : Env) : (Env.turn p q e).pins = e.script.headD e.pins := rfl
@[simp] theorem turn_script (p q : Phase) (e : Env) : (Env.turn p q e).script = e.script.tail := rfl
@[simp] theorem turn_granted (p q : Phase) (e : Env) : (Env.turn p q e).granted = (decide (p = .transmit) && decide (q = .transmit)) := rfl
@[simp] theorem turn_epoch (p q : Phase) (e : Env) : (Env.turn p q e).epoch = if e.pins.rst then e.epoch + 1 else e.epoch := rfl

@[simp] theorem run_next (s : State) (c : CoreState) : s.run (.next c) = .next { s with core := c } := rfl
@[simp] theorem run_fault (s : State) (r : Fault) : s.run (.fault r) = .fault r := rfl
@[simp] theorem run_refused (s : State) (r : Refusal) : s.run (.refused r) = .refused r := rfl
@[simp] theorem coreOutcome_next (s : State) : coreOutcome (.next s) = .next s.core := rfl
@[simp] theorem coreOutcome_fault (r : Fault) : coreOutcome (.fault r) = .fault r := rfl
@[simp] theorem coreOutcome_refused (r : Refusal) : coreOutcome (.refused r) = .refused r := rfl
@[simp] theorem afterCore_next (s : State) (c : CoreState) :
    s.afterCore (.next c) = .next { s with core := c, env := s.env.turn s.core.regs.phase c.regs.phase } := rfl
@[simp] theorem afterCore_fault (s : State) (r : Fault) : s.afterCore (.fault r) = .fault r := rfl
@[simp] theorem afterCore_refused (s : State) (r : Refusal) : s.afterCore (.refused r) = .refused r := rfl

@[simp] theorem rgb_of_colour (x : Regs) (c : RGB) :
    ({ x with r := c.r, g := c.g, b := c.b, phase := Phase.encode } : Regs).rgb = c := rfl

@[simp] theorem coreAfterReset_regs (build : Config) (n : Nat) (es : List Event) :
    (CoreState.afterReset build n es).regs = Regs.afterReset build n := rfl
@[simp] theorem coreAfterReset_sclk (build : Config) (n : Nat) (es : List Event) :
    (CoreState.afterReset build n es).sclk = [false] := rfl
@[simp] theorem coreAfterReset_mosi (build : Config) (n : Nat) (es : List Event) :
    (CoreState.afterReset build n es).mosi = [] := rfl
@[simp] theorem coreAfterReset_diag (build : Config) (n : Nat) (es : List Event) :
    (CoreState.afterReset build n es).diag = none := rfl
@[simp] theorem coreAfterReset_trace (build : Config) (n : Nat) (es : List Event) :
    (CoreState.afterReset build n es).trace = es := rfl

@[simp] theorem reset_build : State.reset.build = Config.default := rfl
@[simp] theorem reset_core : State.reset.core = CoreState.afterReset Config.default 0 [] := rfl
@[simp] theorem reset_env : State.reset.env = Env.quiet := rfl
@[simp] theorem quiet_pins : Env.quiet.pins = Pins.quiet := rfl
@[simp] theorem quiet_script : Env.quiet.script = [] := rfl
@[simp] theorem quiet_granted : Env.quiet.granted = false := rfl
@[simp] theorem quiet_epoch : Env.quiet.epoch = 0 := rfl

/-- The registers after reset (rule R45). -/
@[simp] theorem afterReset_hue (c : Config) (n : Nat) : (Regs.afterReset c n).hue = c.hueInit := rfl
@[simp] theorem afterReset_framebuf (c : Config) (n : Nat) : (Regs.afterReset c n).framebuf = [] := rfl
@[simp] theorem afterReset_txidx (c : Config) (n : Nat) : (Regs.afterReset c n).txidx = 0 := rfl
@[simp] theorem afterReset_phase (c : Config) (n : Nat) : (Regs.afterReset c n).phase = .init := rfl
@[simp] theorem afterReset_txerr (c : Config) (n : Nat) : (Regs.afterReset c n).txerr = false := rfl
@[simp] theorem afterReset_fatal (c : Config) (n : Nat) : (Regs.afterReset c n).fatal = false := rfl
@[simp] theorem afterReset_faultCode (c : Config) (n : Nat) : (Regs.afterReset c n).faultCode = .none := rfl
@[simp] theorem afterReset_line (c : Config) (n : Nat) : (Regs.afterReset c n).line = false := rfl

/-- The sequencer's codes read back (rule R84). -/
@[simp] theorem ofCode_code (p : Phase) : Phase.ofCode p.code = p := by
  cases p <;> rfl

/-- What the sequencer fetches is the operation PHASE names (rules R26, R84). -/
@[simp] theorem fetchOperation_eq (c : CoreState) : fetchOperation c = c.regs.phase.operation := by
  have h : BitVec.ofNat 3 (fetchCode c) = c.regs.phase.code := by
    simp [fetchCode]
  simp [fetchOperation, h]

end Sys2Proof.Machine
end

