-- ==== Sys2Proof/Laws/Memory.lean ====
section
/-! SUPPORT. The frame buffer: what a read gives after a write, and that every operation keeps the canonical form
(rules R50 to R52; log 3, 26). -/

namespace Sys2Proof.Machine

@[simp] theorem levelByte_ne_zero (c : Bool) : (levelByte c != 0#8) = c := by
  cases c <;> rfl

theorem levelByte_zero_or_one (c : Bool) : levelByte c = 0 ∨ levelByte c = 1 := by
  cases c <;> simp [levelByte]

@[simp] theorem readCell_nil (a : Nat) : Memory.readCell [] a = none := rfl

theorem readCell_cons (e : Host.Cell) (m : Memory) (a : Nat) :
    Memory.readCell (e :: m) a = if e.1 = a then some (e.2 != 0) else Memory.readCell m a := rfl

/-- Reading from two lists laid end to end: the first that lists the cell answers. -/
theorem readCell_append (m n : Memory) (a : Nat) :
    Memory.readCell (m ++ n) a = (Memory.readCell m a).or (Memory.readCell n a) := by
  induction m with
  | nil => simp
  | cons e m ih =>
    simp only [List.cons_append, readCell_cons, ih]
    split <;> simp

/-- A cell that no entry is about holds no value. -/
theorem readCell_eq_none {m : Memory} {a : Nat} (h : ∀ e ∈ m, e.1 ≠ a) : Memory.readCell m a = none := by
  induction m with
  | nil => rfl
  | cons e m ih =>
    rw [readCell_cons, if_neg (h e (by simp)), ih (fun f hf => h f (by simp [hf]))]

theorem readCell_filter {m : Memory} {a : Nat} {p : Nat → Bool} (h : p a = true) :
    Memory.readCell (m.filter (fun e => p e.1)) a = Memory.readCell m a := by
  induction m with
  | nil => rfl
  | cons e m ih =>
    by_cases hp : p e.1 = true
    · simp [hp, readCell_cons, ih]
    · have hne : e.1 ≠ a := by
        rintro rfl
        exact hp h
      simp [hp, readCell_cons, hne, ih]

/-- The cells of a list laid from cell `i` on. -/
theorem readCell_entries (i : Nat) (cells : List Bool) (a : Nat) :
    Memory.readCell (Memory.entries i cells) a = if i ≤ a then cells[a - i]? else none := by
  induction cells generalizing i with
  | nil => simp [Memory.entries]
  | cons c cs ih =>
    rw [Memory.entries, readCell_cons, ih]
    by_cases h : i = a
    · subst h; simp
    · by_cases h2 : i + 1 ≤ a
      · have h3 : a - i = (a - (i + 1)) + 1 := by omega
        rw [if_neg h, if_pos h2, if_pos (by omega), h3, List.getElem?_cons_succ]
      · rw [if_neg h, if_neg h2, if_neg (by omega)]

theorem mem_entries {i : Nat} {cells : List Bool} {e : Host.Cell} (h : e ∈ Memory.entries i cells) :
    i ≤ e.1 ∧ e.1 < i + cells.length ∧ (e.2 = 0 ∨ e.2 = 1) := by
  induction cells generalizing i with
  | nil => simp [Memory.entries] at h
  | cons c cs ih =>
    rw [Memory.entries, List.mem_cons] at h
    rcases h with rfl | h
    · exact ⟨Nat.le_refl _, by simp, levelByte_zero_or_one c⟩
    · obtain ⟨h1, h2, h3⟩ := ih h
      exact ⟨by omega, by simp only [List.length_cons]; omega, h3⟩

theorem pairwise_entries (i : Nat) (cells : List Bool) :
    (Memory.entries i cells).Pairwise (fun a b => a.1 < b.1) := by
  induction cells generalizing i with
  | nil => exact List.Pairwise.nil
  | cons c cs ih =>
    refine List.Pairwise.cons (fun e he => ?_) (ih (i + 1))
    have := (mem_entries he).1
    simp only
    omega

/-- MemWrite, read back (rules R51, R52): inside the written cells the list's values, elsewhere what was there. -/
theorem readCell_write (m : Memory) (i : Nat) (cells : List Bool) (a : Nat) :
    (m.write i cells).readCell a =
      if i ≤ a ∧ a < i + cells.length then cells[a - i]? else m.readCell a := by
  unfold Memory.write
  rw [readCell_append, readCell_append, readCell_entries]
  by_cases h1 : i ≤ a
  · have hlow : Memory.readCell (m.filter (fun e => decide (e.1 < i))) a = none := by
      apply readCell_eq_none
      intro e he
      have := (List.mem_filter.mp he).2
      simp only [decide_eq_true_eq] at this
      omega
    by_cases h2 : a < i + cells.length
    · have h3 : a - i < cells.length := by omega
      simp [h1, h2, hlow, List.getElem?_eq_getElem h3]
    · have h3 : cells[a - i]? = none := List.getElem?_eq_none (by omega)
      have h4 := readCell_filter (m := m) (a := a) (p := fun k => decide (i + cells.length ≤ k)) (by simp; omega)
      simp [h1, h2, hlow, h3, h4]
  · have h4 := readCell_filter (m := m) (a := a) (p := fun k => decide (k < i)) (by simp; omega)
    have hhigh : Memory.readCell (m.filter (fun e => decide (i + cells.length ≤ e.1))) a = none := by
      apply readCell_eq_none
      intro e he
      have := (List.mem_filter.mp he).2
      simp only [decide_eq_true_eq] at this
      omega
    simp [h1, h4, hhigh]

/-- The reset frame buffer is in canonical form. -/
theorem wf_nil : Memory.wf [] := ⟨List.Pairwise.nil, by simp⟩

/-- MemWrite keeps the canonical form. -/
theorem wf_write {m : Memory} (h : m.wf) (i : Nat) (cells : List Bool) : (m.write i cells).wf := by
  obtain ⟨hp, hb⟩ := h
  unfold Memory.write
  constructor
  · rw [List.pairwise_append, List.pairwise_append]
    refine ⟨⟨hp.filter _, pairwise_entries i cells, ?_⟩, hp.filter _, ?_⟩
    · intro a ha b hbm
      have h1 := (List.mem_filter.mp ha).2
      have h2 := (mem_entries hbm).1
      simp only [decide_eq_true_eq] at h1
      omega
    · intro a ha b hbm
      have h2 := (List.mem_filter.mp hbm).2
      simp only [decide_eq_true_eq] at h2
      rcases List.mem_append.mp ha with h1 | h1
      · have h3 := (List.mem_filter.mp h1).2
        simp only [decide_eq_true_eq] at h3
        omega
      · have h3 := (mem_entries h1).2.1
        omega
  · intro e he
    rcases List.mem_append.mp he with h1 | h1
    · rcases List.mem_append.mp h1 with h2 | h2
      · exact hb e (List.mem_filter.mp h2).1
      · exact (mem_entries h2).2.2
    · exact hb e (List.mem_filter.mp h1).1

/-- MemRead gives a list exactly when each of its cells holds that value (rule R52). -/
theorem read_eq_some {m : Memory} {i n : Nat} {cells : List Bool} :
    m.read i n = some cells ↔ cells.length = n ∧ ∀ k, k < n → m.readCell (i + k) = cells[k]? := by
  induction n generalizing i cells with
  | zero =>
    cases cells <;> simp [Memory.read]
  | succ n ih =>
    cases cells with
    | nil =>
      simp only [Memory.read, List.length_nil]
      constructor
      · intro h
        split at h <;> simp at h
      · rintro ⟨h, -⟩
        omega
    | cons c cs =>
      have key : m.read i (n + 1) = some (c :: cs) ↔ m.readCell i = some c ∧ m.read (i + 1) n = some cs := by
        simp only [Memory.read]
        split
        · rename_i h0 h1
          rw [h0, h1]
          simp
        · rename_i h
          simp only [reduceCtorEq, false_iff, not_and]
          intro h1 h2
          exact h c cs h1 h2
      rw [key, ih]
      constructor
      · rintro ⟨h0, hl, hk⟩
        refine ⟨by simp [hl], ?_⟩
        intro k hk'
        cases k with
        | zero => simpa using h0
        | succ k =>
          have := hk k (by omega)
          rw [show i + (k + 1) = i + 1 + k by omega, this, List.getElem?_cons_succ]
      · rintro ⟨hl, hk⟩
        refine ⟨by simpa using hk 0 (by omega), by simpa using hl, ?_⟩
        intro k hk'
        have := hk (k + 1) (by omega)
        rwa [show i + (k + 1) = i + 1 + k by omega, List.getElem?_cons_succ] at this

/-- A whole-buffer write, read back whole (rules R51, R52). -/
theorem read_write_all (m : Memory) (cells : List Bool) : (m.write 0 cells).read 0 cells.length = some cells := by
  rw [read_eq_some]
  refine ⟨rfl, fun k hk => ?_⟩
  rw [readCell_write, if_pos (by omega)]
  simp

end Sys2Proof.Machine
end

