-- ==== Sys2Proof/Laws/Encoder.lean ====
section
/-! SUPPORT. The lengths of what the encoder makes, in a build the spec gives a machine for (rules R75, R90, R131). -/

namespace Sys2Proof.Machine

/-- What `Config.ok` says, spelled out (rules R56, R131). -/
theorem config_ok_iff {c : Config} : c.ok = true ↔
    2 ≤ c.nCell ∧ c.patternOk c.pat0 = true ∧ c.patternOk c.pat1 = true
      ∧ Config.highCells c.pat0 < Config.highCells c.pat1 ∧ (c.chOrder.length = 3 ∧ c.chOrder.Nodup)
      ∧ (c.byteBus = true → c.frameCells % 8 = 0) := by
  unfold Config.ok Config.chOrderOk
  simp only [Bool.and_eq_true, Bool.or_eq_true, decide_eq_true_eq, Bool.not_eq_true']
  cases c.byteBus <;> simp [and_assoc]

/-- A pattern is a run of ones and then zeros (rule R131 (b)). -/
theorem patternOk_iff {c : Config} {p : List Bool} : c.patternOk p = true ↔
    p = List.replicate (Config.highCells p) true ++ List.replicate (c.nCell - Config.highCells p) false
      ∧ 1 ≤ Config.highCells p ∧ Config.highCells p < c.nCell := by
  unfold Config.patternOk
  simp [and_assoc]

theorem length_of_patternOk {c : Config} {p : List Bool} (h : c.patternOk p = true) : p.length = c.nCell := by
  obtain ⟨h1, -, h2⟩ := patternOk_iff.mp h
  rw [h1, List.length_append, List.length_replicate, List.length_replicate]
  omega

theorem length_sym {c : Config} (h : c.ok = true) (b : Bool) : (sym c b).length = c.nCell := by
  obtain ⟨-, h0, h1, -⟩ := config_ok_iff.mp h
  cases b
  · exact length_of_patternOk h0
  · exact length_of_patternOk h1

@[simp] theorem length_byteBits (c : U8) : (byteBits c).length = 8 := rfl

/-- Pieces of one length, laid end to end. -/
theorem length_flatMap_const {α β : Type} {f : α → List β} {n : Nat} (l : List α) (h : ∀ a, (f a).length = n) :
    (l.flatMap f).length = l.length * n := by
  induction l with
  | nil => simp
  | cons a l ih =>
    rw [List.flatMap_cons, List.length_append, h, ih, List.length_cons]
    ring

theorem length_pixWord {c : Config} (h : c.ok = true) (x : RGB) : (pixWord c x).length = 24 := by
  obtain ⟨-, -, -, -, ⟨h3, -⟩, -⟩ := config_ok_iff.mp h
  unfold pixWord
  rw [length_flatMap_const _ (fun ch => length_byteBits (x.channel ch)), h3]

theorem length_pixCells {c : Config} (h : c.ok = true) (x : RGB) : (pixCells c x).length = 24 * c.nCell := by
  unfold pixCells
  rw [length_flatMap_const _ (length_sym h), length_pixWord h x]

theorem length_encodeFrame {c : Config} (h : c.ok = true) (pixels : List RGB) :
    (encodeFrame c pixels).length = pixels.length * 24 * c.nCell + c.resetCells := by
  unfold encodeFrame gap
  rw [List.length_append, length_flatMap_const _ (length_pixCells h), List.length_replicate, Nat.mul_assoc]

/-- A build the scheduler runs in: the parameter set is one the spec gives a machine for, and `NPIX` is 1. -/
theorem buildRefusal_eq_none {c : Config} : buildRefusal c = none ↔ c.ok = true ∧ c.npix = 1 := by
  unfold buildRefusal
  split
  · split <;> simp_all
  · simp_all

/-- The one-pixel frame fills the frame buffer (rules R128, R165). -/
theorem length_encodeFrame_single {c : Config} (h : buildRefusal c = none) (x : RGB) :
    (encodeFrame c [x]).length = c.frameCells := by
  obtain ⟨h1, h2⟩ := buildRefusal_eq_none.mp h
  rw [length_encodeFrame h1]
  simp [Config.frameCells, h2]

end Sys2Proof.Machine
end

