-- ==== Sys2Proof/Laws/PerInstr.lean ====
section
/-! SUPPORT. Statements made of every instruction, one lemma per constructor. Family `CodeMatchesTable`: the encoder's
code has the fixed bits of the instruction's row of spec/opcode_table.json ("fixed") and fits its format. -/

namespace Sys2Proof.Laws.CodeMatchesTable

/-- The fixed bits of a row: bits `hi` down to `lo` hold `value`. -/
structure FixedBits where
  hi : Nat
  lo : Nat
  value : Nat
  deriving DecidableEq, Repr

/-- "fixed" of each row, copied from spec/opcode_table.json. -/
def fixedBits : Instr → FixedBits
  | .init => ⟨2, 0, 0x0⟩
  | .capture => ⟨2, 0, 0x1⟩
  | .convert => ⟨2, 0, 0x2⟩
  | .encode => ⟨2, 0, 0x3⟩
  | .transmit => ⟨2, 0, 0x4⟩
  | .advance => ⟨2, 0, 0x5⟩
  | .pace => ⟨2, 0, 0x6⟩
  | .halt => ⟨2, 0, 0x7⟩
  | .convertAchromatic _ _ => ⟨15, 8, 0x000000⟩
  | .convertRegion0 => ⟨2, 0, 0x0⟩
  | .convertRegion1 => ⟨2, 0, 0x1⟩
  | .convertRegion2 => ⟨2, 0, 0x2⟩
  | .convertRegion3 => ⟨2, 0, 0x3⟩
  | .convertRegion4 => ⟨2, 0, 0x4⟩
  | .convertRegion5 => ⟨2, 0, 0x5⟩
  | .sym0 => ⟨3, 0, 0x8⟩
  | .sym1 => ⟨3, 0, 0xE⟩
  | .gapcell => ⟨3, 0, 0x0⟩
  | .bb00 => ⟨7, 0, 0x88⟩
  | .bb01 => ⟨7, 0, 0x8E⟩
  | .bb10 => ⟨7, 0, 0xE8⟩
  | .bb11 => ⟨7, 0, 0xEE⟩
  | .bbgap => ⟨7, 0, 0x00⟩
  | .faultNone => ⟨1, 0, 0x0⟩
  | .faultInitFailure => ⟨1, 0, 0x1⟩
  | .faultReserved2 => ⟨1, 0, 0x2⟩
  | .faultReserved3 => ⟨1, 0, 0x3⟩
  | .txerrOk => ⟨0, 0, 0x0⟩
  | .txerrTransportError => ⟨0, 0, 0x1⟩

def Statement (i : Instr) : Prop :=
  encode i / 2 ^ (fixedBits i).lo % 2 ^ ((fixedBits i).hi + 1 - (fixedBits i).lo) = (fixedBits i).value
    ∧ encode i < 2 ^ i.format.width

theorem init : Statement .init := by unfold Statement; decide
theorem capture : Statement .capture := by unfold Statement; decide
theorem convert : Statement .convert := by unfold Statement; decide
theorem encode : Statement .encode := by unfold Statement; decide
theorem transmit : Statement .transmit := by unfold Statement; decide
theorem advance : Statement .advance := by unfold Statement; decide
theorem pace : Statement .pace := by unfold Statement; decide
theorem halt : Statement .halt := by unfold Statement; decide

theorem convertAchromatic (h v : U8) : Statement (.convertAchromatic h v) := by
  have h1 := h.isLt
  have h2 := v.isLt
  unfold Statement
  simp only [Sys2Proof.encode, fixedBits, Instr.format, Format.width]
  omega

theorem convertRegion0 : Statement .convertRegion0 := by unfold Statement; decide
theorem convertRegion1 : Statement .convertRegion1 := by unfold Statement; decide
theorem convertRegion2 : Statement .convertRegion2 := by unfold Statement; decide
theorem convertRegion3 : Statement .convertRegion3 := by unfold Statement; decide
theorem convertRegion4 : Statement .convertRegion4 := by unfold Statement; decide
theorem convertRegion5 : Statement .convertRegion5 := by unfold Statement; decide
theorem sym0 : Statement .sym0 := by unfold Statement; decide
theorem sym1 : Statement .sym1 := by unfold Statement; decide
theorem gapcell : Statement .gapcell := by unfold Statement; decide
theorem bb00 : Statement .bb00 := by unfold Statement; decide
theorem bb01 : Statement .bb01 := by unfold Statement; decide
theorem bb10 : Statement .bb10 := by unfold Statement; decide
theorem bb11 : Statement .bb11 := by unfold Statement; decide
theorem bbgap : Statement .bbgap := by unfold Statement; decide
theorem faultNone : Statement .faultNone := by unfold Statement; decide
theorem faultInitFailure : Statement .faultInitFailure := by unfold Statement; decide
theorem faultReserved2 : Statement .faultReserved2 := by unfold Statement; decide
theorem faultReserved3 : Statement .faultReserved3 := by unfold Statement; decide
theorem txerrOk : Statement .txerrOk := by unfold Statement; decide
theorem txerrTransportError : Statement .txerrTransportError := by unfold Statement; decide

end Sys2Proof.Laws.CodeMatchesTable
end

