-- ==== Sys2Proof/Laws/Step.lean ====
section
/-! SUPPORT. Everything a step and each shared operation can do when it answers a next state: later proofs cite these
and do not unfold `step` (rules R143 to R146, R161, R196). -/

namespace Sys2Proof.Machine

/-- An operation on the core answers a next state of the closed system: it changed the core alone (rules R11, R32). -/
theorem run_eq_next {s t : State} {o : Host.Outcome CoreState Fault Refusal} :
    s.run o = .next t ↔ ∃ c, o = .next c ∧ t = { s with core := c } := by
  cases o <;> simp [eq_comm]

@[simp] theorem coreOutcome_run (s : State) (o : Host.Outcome CoreState Fault Refusal) : coreOutcome (s.run o) = o := by
  cases o <;> rfl

/-- A step of the core to a next state: the build has a machine, and it is a reset or the operation of PHASE (rule R161). -/
theorem coreStep_next {build : Config} {e : Env} {c d : CoreState} (h : coreStep build e c = .next d) :
    buildRefusal build = none ∧
      ((e.pins.rst = true ∧ d = applyReset build e c) ∨
        (e.pins.rst = false ∧ coreOutcome (exec c.regs.phase.operation ⟨build, strobesLow c, e⟩) = .next d)) := by
  unfold coreStep at h
  split at h
  · cases h
  · rename_i hb
    rw [fetchOperation_eq] at h
    split at h
    · rename_i hr
      exact ⟨hb, .inl ⟨hr, by simpa using h.symm⟩⟩
    · rename_i hr
      exact ⟨hb, .inr ⟨by simpa using hr, h⟩⟩

/-- A step of the core in a build that has a machine, without reset: the operation of PHASE (rule R161). -/
theorem coreStep_eq {build : Config} {e : Env} (c : CoreState) (hb : buildRefusal build = none)
    (hr : e.pins.rst = false) :
    coreStep build e c = coreOutcome (exec c.regs.phase.operation ⟨build, strobesLow c, e⟩) := by
  simp [coreStep, hb, hr]

/-- A step of the closed system to a next state is the core's step and the environment's turn. -/
theorem step_next {s t : State} (h : step s = .next t) :
    ∃ d, coreStep s.build s.env s.core = .next d
      ∧ t = { s with core := d, env := s.env.turn s.core.regs.phase d.regs.phase } := by
  unfold step at h
  cases hc : coreStep s.build s.env s.core with
  | next d => rw [hc] at h; exact ⟨d, rfl, by simpa using h.symm⟩
  | fault r => rw [hc] at h; cases h
  | refused r => rw [hc] at h; cases h

/-- The core's step and the environment's turn make a step of the closed system. -/
theorem step_of_core {s : State} {d : CoreState} (h : coreStep s.build s.env s.core = .next d) :
    step s = .next { s with core := d, env := s.env.turn s.core.regs.phase d.regs.phase } := by
  rw [step, h]
  rfl

/-- No row changes the build or the environment (rules R11, R32; log 6). -/
theorem exec_next_frame {i : Instr} {s t : State} (h : exec i s = .next t) : t.build = s.build ∧ t.env = s.env := by
  cases i
  case faultReserved2 => cases h
  case faultReserved3 => cases h
  all_goals
    simp only [exec, execInit, execCapture, execConvert, execEncode, execTransmit, execAdvance, execPace, execHalt,
      execConvertAchromatic, execConvertRegion0, execConvertRegion1, execConvertRegion2, execConvertRegion3,
      execConvertRegion4, execConvertRegion5, execSym0, execSym1, execGapcell, execBb00, execBb01, execBb10, execBb11,
      execBbgap, driveGroup, execFaultNone, execFaultInitFailure, execTxerrOk, execTxerrTransportError,
      run_eq_next] at h
    obtain ⟨c, -, rfl⟩ := h
    exact ⟨rfl, rfl⟩

/-- Completion to a next state (rule R146). -/
theorem completeTransfer_next {build : Config} {c d : CoreState} (h : completeTransfer build c = .next d) :
    ∃ cells, c.regs.framebuf.read 0 build.frameCells = some cells ∧
      d = emit (.frameSent cells c.regs.tstart)
        { setTxerr false c with regs.line := false, regs.txidx := 0, regs.phase := .advance } := by
  unfold completeTransfer at h
  split at h
  · rename_i cells hc
    exact ⟨cells, hc, by simpa using h.symm⟩
  · simp at h

/-- A transfer step to a next state: a cell, a wait, or the completion (rules R145, R146, R148). -/
theorem transferStep_next {build : Config} {e : Env} {c d : CoreState} (h : transferStep build e c = .next d) :
    (c.regs.txidx < build.frameCells ∧ e.pins.cellEn = true ∧
        ∃ x, c.regs.framebuf.readCell c.regs.txidx = some x ∧ d = driveCell x c) ∨
      (c.regs.txidx < build.frameCells ∧ e.pins.cellEn = false ∧ d = { c with regs.phase := .transmit }) ∨
        (c.regs.txidx = build.frameCells ∧ completeTransfer build c = .next d) := by
  unfold transferStep at h
  split at h
  · rename_i hlt
    split at h
    · rename_i hp
      split at h
      · rename_i x hx
        exact .inl ⟨hlt, hp, x, hx, by simpa using h.symm⟩
      · simp at h
    · rename_i hp
      exact .inr (.inl ⟨hlt, by simpa [cellPulse] using hp, by simpa using h.symm⟩)
  · split at h
    · rename_i he
      exact .inr (.inr ⟨he, h⟩)
    · simp at h

/-- A group of cells to a next state: it fits before the end of the frame (rules R74, R76). -/
theorem driveGroup_next {cells : List Bool} {s t : State} (h : driveGroup cells s = .next t) :
    s.core.regs.txidx + cells.length ≤ s.build.frameCells ∧ t = { s with core := driveCells cells s.core } := by
  unfold driveGroup at h
  split at h
  · rename_i hc
    exact ⟨hc, by simpa using h.symm⟩
  · simp at h

@[simp] theorem driveCells_nil (c : CoreState) : driveCells [] c = c := rfl

@[simp] theorem driveCells_cons (x : Bool) (xs : List Bool) (c : CoreState) :
    driveCells (x :: xs) c = driveCells xs (driveCell x c) := rfl

/-- Driving cells moves TXIDX past them (rule R145). -/
theorem driveCells_txidx (cells : List Bool) (c : CoreState) :
    (driveCells cells c).regs.txidx = c.regs.txidx + cells.length := by
  induction cells generalizing c with
  | nil => rfl
  | cons x xs ih =>
    rw [driveCells_cons, ih]
    simp only [driveCell_regs, List.length_cons]
    omega

/-- The trace after a reset records at most the transfer that the reset cut (rules R45, R222). -/
theorem resetTrace_cases (build : Config) (c : CoreState) :
    resetTrace build c = [] ∨ ∃ cells, resetTrace build c = [.frameAborted cells] := by
  unfold resetTrace
  split
  · cases c.regs.framebuf.read 0 c.regs.txidx <;> simp
  · exact .inl rfl

@[simp] theorem busInitVerdict_pending (e : Env) : busInitVerdict e = .pending ↔ e.pins.busInitDone = false := by
  unfold busInitVerdict
  cases e.pins.busInitDone <;> cases e.pins.busInitOk <;> simp

@[simp] theorem busInitVerdict_ok (e : Env) :
    busInitVerdict e = .ok ↔ e.pins.busInitDone = true ∧ e.pins.busInitOk = true := by
  unfold busInitVerdict
  cases e.pins.busInitDone <;> cases e.pins.busInitOk <;> simp

@[simp] theorem busInitVerdict_fail (e : Env) :
    busInitVerdict e = .fail ↔ e.pins.busInitDone = true ∧ e.pins.busInitOk = false := by
  unfold busInitVerdict
  cases e.pins.busInitDone <;> cases e.pins.busInitOk <;> simp

@[simp] theorem busAccept_reject (e : Env) :
    busAccept e = .reject ↔ e.granted = false ∧ e.pins.busReject = true := by
  unfold busAccept
  cases e.granted <;> cases e.pins.busReject <;> simp

/-- When the bus turns a transfer away, as a proposition (rules R42, R143). -/
theorem turnedAway_iff (e : Env) (c : CoreState) :
    turnedAway e c = true ↔ c.regs.txidx = 0 ∧ e.granted = false ∧ e.pins.busReject = true := by
  simp only [turnedAway, Bool.and_eq_true]
  exact and_congr decide_eq_true_iff (decide_eq_true_iff.trans (busAccept_reject e))

/-- What PACE compares, as a proposition (rule R168). -/
theorem periodReached_iff (build : Config) (n tstart : Stamp) :
    periodReached build n tstart = true ↔ build.framePeriodTicks ≤ elapsed n tstart := by
  unfold periodReached
  exact decide_eq_true_iff

/-- A transfer that a reset would cut, as a proposition (rule R222). -/
theorem midTransfer_iff (build : Config) (c : CoreState) :
    midTransfer build c = true ↔ c.regs.phase = .transmit ∧ 0 < c.regs.txidx ∧ c.regs.txidx < build.frameCells := by
  simp only [midTransfer, Bool.and_eq_true, and_assoc]
  exact and_congr decide_eq_true_iff (and_congr decide_eq_true_iff decide_eq_true_iff)

/-- `elapsed` under a clock that has not fallen since the capture (rules R40 (a), R168). -/
theorem elapsed_of_le {n tstart : Stamp} (h : tstart.toNat ≤ n.toNat) : elapsed n tstart = n.toNat - tstart.toNat := by
  have := n.isLt
  rw [elapsed, BitVec.toNat_sub]
  omega

/-- TRANSMIT is a rejection or a step of the transfer, by the bus's answer (rules R143, R144). -/
theorem execTransmit_eq (s : State) :
    execTransmit s = s.run (if turnedAway s.env s.core then .next (raise .transportError s.core)
      else transferStep s.build s.env s.core) := rfl

/-- An accepted transfer, or a bus that does not reject: TRANSMIT is a step of the transfer (rule R143). -/
theorem execTransmit_accepted {s : State}
    (h : s.env.granted = true ∨ 0 < s.core.regs.txidx ∨ s.env.pins.busReject = false) :
    execTransmit s = s.run (transferStep s.build s.env s.core) := by
  rw [execTransmit_eq, if_neg]
  rw [turnedAway_iff]
  rintro ⟨h1, h2, h3⟩
  rw [h2, h3] at h
  rcases h with h | h | h
  · cases h
  · omega
  · cases h

/-- Writing the phase a register file has changes nothing. -/
theorem regs_phase_self (r : Regs) {p : Phase} (h : r.phase = p) : ({ r with phase := p } : Regs) = r := by
  cases h
  rfl

/-- Everything an operation of the core can do, from `c` to `d`, in a build and an environment. -/
inductive Did (build : Config) (e : Env) (c d : CoreState) : Prop
  /-- INIT waits -/
  | initWaits (phase : c.regs.phase = .init) (verdict : e.pins.busInitDone = false) (regs : d.regs = c.regs)
    (trace : d.trace = c.trace)
  /-- INIT starts the loop -/
  | initStarts (phase : c.regs.phase = .init) (done : e.pins.busInitDone = true) (verdict : e.pins.busInitOk = true)
    (regs : d.regs = { c.regs with phase := .capture }) (trace : d.trace = c.trace)
  /-- INIT fails -/
  | initFails (phase : c.regs.phase = .init) (done : e.pins.busInitDone = true) (verdict : e.pins.busInitOk = false)
    (regs : d.regs = { c.regs with fatal := true, faultCode := .initFailure, phase := .halt })
    (trace : d.trace = c.trace ++ [.fatal .initFailure])
  /-- CAPTURE -/
  | captured (phase : c.regs.phase = .capture) (regs : d.regs = { c.regs with tstart := e.pins.now, phase := .convert })
    (trace : d.trace = c.trace)
  /-- CONVERT -/
  | converted (phase : c.regs.phase = .convert) (x : RGB) (colour : x = convert c.regs.hue build.sat build.val)
    (regs : d.regs = { c.regs with r := x.r, g := x.g, b := x.b, phase := .encode })
    (trace : d.trace = if build.diagPresent then c.trace ++ [.diag c.regs.hue] else c.trace)
  /-- ENCODE -/
  | encoded (phase : c.regs.phase = .encode)
    (regs : d.regs = { c.regs with
      framebuf := c.regs.framebuf.write 0 (encodeFrame build [c.regs.rgb]), phase := .transmit })
    (trace : d.trace = c.trace)
  /-- TRANSMIT, rejected on entry -/
  | rejected (phase : c.regs.phase = .transmit) (idx : c.regs.txidx = 0) (entry : e.granted = false)
    (reject : e.pins.busReject = true) (regs : d.regs = { c.regs with txerr := true, phase := .advance })
    (trace : d.trace = c.trace ++ [.frameDropped c.regs.tstart])
  /-- TRANSMIT drives a cell -/
  | drove (phase : c.regs.phase = .transmit)
    (entry : ¬ (c.regs.txidx = 0 ∧ e.granted = false ∧ e.pins.busReject = true))
    (idx : c.regs.txidx < build.frameCells) (pulse : e.pins.cellEn = true) (x : Bool)
    (cell : c.regs.framebuf.readCell c.regs.txidx = some x)
    (regs : d.regs = { c.regs with line := x, txidx := c.regs.txidx + 1 }) (trace : d.trace = c.trace)
  /-- TRANSMIT waits for a pulse -/
  | stalled (phase : c.regs.phase = .transmit)
    (entry : ¬ (c.regs.txidx = 0 ∧ e.granted = false ∧ e.pins.busReject = true))
    (idx : c.regs.txidx < build.frameCells)
    (pulse : e.pins.cellEn = false) (regs : d.regs = c.regs) (trace : d.trace = c.trace)
  /-- TRANSMIT completes -/
  | completed (phase : c.regs.phase = .transmit) (idx : c.regs.txidx = build.frameCells) (cells : List Bool)
    (buffer : c.regs.framebuf.read 0 build.frameCells = some cells)
    (regs : d.regs = { c.regs with line := false, txidx := 0, txerr := false, phase := .advance })
    (trace : d.trace = c.trace ++ [.frameSent cells c.regs.tstart])
  /-- ADVANCE -/
  | advanced (phase : c.regs.phase = .advance)
    (regs : d.regs = { c.regs with hue := c.regs.hue + build.hueStep, phase := .pace })
    (trace : d.trace = c.trace)
  /-- PACE, the period is over -/
  | paceOver (phase : c.regs.phase = .pace) (period : periodReached build e.pins.now c.regs.tstart = true)
    (regs : d.regs = { c.regs with phase := .capture }) (trace : d.trace = c.trace)
  /-- PACE waits -/
  | paceWaits (phase : c.regs.phase = .pace) (period : periodReached build e.pins.now c.regs.tstart = false)
    (regs : d.regs = c.regs) (trace : d.trace = c.trace)
  /-- HALT -/
  | halted (phase : c.regs.phase = .halt) (regs : d.regs = c.regs) (trace : d.trace = c.trace)

/-- The inversion of a step of the core that is no reset: everything it can do to the registers and the trace (rules R161 to
R169). -/
theorem coreStep_did {build : Config} {e : Env} {c d : CoreState} (h : coreStep build e c = .next d)
    (hr : e.pins.rst = false) : buildRefusal build = none ∧ Did build e c d := by
  obtain ⟨hb, ⟨h1, -⟩ | ⟨-, hu⟩⟩ := coreStep_next h
  · rw [hr] at h1
    cases h1
  · refine ⟨hb, ?_⟩
    cases hp : c.regs.phase <;> rw [hp] at hu <;> simp only [Phase.operation, exec] at hu
    · rw [execInit, coreOutcome_run] at hu
      split at hu <;> rename_i hv <;> simp only [Host.Outcome.next.injEq] at hu <;> subst hu
      · rw [busInitVerdict_pending] at hv
        exact .initWaits hp hv (regs_phase_self c.regs hp) rfl
      · rw [busInitVerdict_ok] at hv
        exact .initStarts hp hv.1 hv.2 rfl rfl
      · rw [busInitVerdict_fail] at hv
        exact .initFails hp hv.1 hv.2 rfl rfl
    · rw [execCapture, coreOutcome_run, Host.Outcome.next.injEq] at hu
      subst hu
      exact .captured hp rfl rfl
    · rw [execConvert, coreOutcome_run, Host.Outcome.next.injEq] at hu
      subst hu
      exact .converted hp _ rfl (finishConvert_regs ..) (finishConvert_trace ..)
    · rw [execEncode, coreOutcome_run, Host.Outcome.next.injEq] at hu
      subst hu
      exact .encoded hp rfl rfl
    · rw [execTransmit_eq, coreOutcome_run] at hu
      split at hu <;> rename_i ha
      · rw [turnedAway_iff] at ha
        rw [Host.Outcome.next.injEq] at hu
        subst hu
        exact .rejected hp ha.1 ha.2.1 ha.2.2 rfl rfl
      · rw [turnedAway_iff] at ha
        rcases transferStep_next hu with ⟨hi, hc, x, hx, rfl⟩ | ⟨hi, hc, rfl⟩ | ⟨hi, hu⟩
        · exact .drove hp ha hi hc x hx (regs_phase_self { c.regs with line := x, txidx := c.regs.txidx + 1 } hp) rfl
        · exact .stalled hp ha hi hc (regs_phase_self c.regs hp) rfl
        · obtain ⟨cells, hc, rfl⟩ := completeTransfer_next hu
          exact .completed hp hi cells hc rfl rfl
    · rw [execAdvance, coreOutcome_run, Host.Outcome.next.injEq] at hu
      subst hu
      exact .advanced hp rfl rfl
    · rw [execPace, coreOutcome_run, Host.Outcome.next.injEq] at hu
      subst hu
      cases hq : periodReached build e.pins.now c.regs.tstart
      · refine .paceWaits hp hq ?_ rfl
        simpa [clockRead, hq] using regs_phase_self c.regs hp
      · refine .paceOver hp hq ?_ rfl
        simp [clockRead, hq]
    · rw [execHalt, coreOutcome_run, Host.Outcome.next.injEq] at hu
      subst hu
      exact .halted hp (regs_phase_self c.regs hp) rfl

/-- The inversion of a step of the closed system that is no reset: what the core did, and the environment's turn. -/
theorem step_did {s t : State} (h : step s = .next t) (hr : s.env.pins.rst = false) :
    buildRefusal s.build = none ∧ Did s.build s.env s.core t.core ∧ t.build = s.build
      ∧ t.env = s.env.turn s.core.regs.phase t.core.regs.phase := by
  obtain ⟨d, hd, rfl⟩ := step_next h
  obtain ⟨hb, hdid⟩ := coreStep_did hd hr
  exact ⟨hb, hdid, rfl, rfl⟩

/-- A step with reset asserted (rule R220). -/
theorem step_reset {s t : State} (h : step s = .next t) (hr : s.env.pins.rst = true) :
    buildRefusal s.build = none ∧ t.core = applyReset s.build s.env s.core ∧ t.build = s.build
      ∧ t.env = s.env.turn s.core.regs.phase .init := by
  obtain ⟨d, hd, rfl⟩ := step_next h
  obtain ⟨hb, ⟨-, rfl⟩ | ⟨h1, -⟩⟩ := coreStep_next hd
  · exact ⟨hb, rfl, rfl, rfl⟩
  · rw [hr] at h1
    cases h1

end Sys2Proof.Machine
end

