-- ==== Sys2Proof/Laws/Run.lean ====
section
/-! SUPPORT. Runs of several steps: one step at a time, how the environment's premises move along, and how the trace grows
(rules R40, R43, R170, R174; log 4). -/

namespace Sys2Proof.Machine

theorem core_run_succ (M : Host.Core) (n : Nat) (s t : M.State) (h : M.step s = .next t) :
    M.run (n + 1) s = M.run n t := by
  rw [Host.Core.run, h]

@[simp] theorem runSteps_zero (s : State) : runSteps 0 s = .next s := rfl

/-- A run goes on from the state after its first step. -/
theorem runSteps_succ (n : Nat) {s t : State} (h : step s = .next t) : runSteps (n + 1) s = runSteps n t :=
  core_run_succ Sys2Proof.core n s t h

@[simp] theorem pinsAt_zero (s : State) : pinsAt s 0 = s.env.pins := by
  unfold pinsAt
  cases s.env.script <;> rfl

/-- The pins after the environment's turn are those of one step later. -/
theorem pinsAt_turn {s t : State} {p q : Phase} (he : t.env = s.env.turn p q) (j : Nat) :
    pinsAt t j = pinsAt s (j + 1) := by
  unfold pinsAt
  simp only [he, turn_pins, turn_script]
  cases s.env.script with
  | nil => cases j <;> simp [pinsAfter]
  | cons q qs => simp [pinsAfter]

theorem noReset_turn {s t : State} {p q : Phase} {n : Nat} (he : t.env = s.env.turn p q)
    (h : NoReset s (n + 1)) : NoReset t n := by
  intro j hj
  rw [pinsAt_turn he]
  exact h (j + 1) (by omega)

/-- The pulses of `n + 1` steps: the one of the first step and those after it. -/
theorem pulsesIn_succ {s t : State} {p q : Phase} (he : t.env = s.env.turn p q) (n : Nat) :
    pulsesIn s (n + 1) = s.env.pins.cellEn.toNat + pulsesIn t n := by
  induction n with
  | zero => simp [pulsesIn]
  | succ n ih =>
    rw [pulsesIn, ih, pulsesIn, pinsAt_turn he]
    omega

/-- A monotone clock stays one after the environment's turn, and does not fall in it (rule R40 (a)). -/
theorem clockMonotone_turn {s t : State} {p q : Phase} (h : ClockMonotone s) (he : t.env = s.env.turn p q) :
    ClockMonotone t ∧ s.env.pins.now.toNat ≤ t.env.pins.now.toNat := by
  unfold ClockMonotone at *
  simp only [he, turn_pins, turn_script]
  cases hq : s.env.script with
  | nil => simp
  | cons q qs =>
    rw [hq] at h
    simp only [List.map_cons, List.pairwise_cons] at h
    refine ⟨?_, h.1 _ (by simp)⟩
    simpa using h.2

/-- Under a monotone clock no later read is below the coming one (rule R40 (a)). -/
theorem now_le_pinsAt {s : State} (h : ClockMonotone s) (j : Nat) :
    s.env.pins.now.toNat ≤ (pinsAt s j).now.toNat := by
  have key : ∀ (qs : List Pins) (p : Pins) (j : Nat),
      ((p :: qs).map (fun x => x.now.toNat)).Pairwise (· ≤ ·) → p.now.toNat ≤ (pinsAfter p qs j).now.toNat := by
    intro qs
    induction qs with
    | nil => intro p j _; cases j <;> simp [pinsAfter]
    | cons q qs ih =>
      intro p j hp
      cases j with
      | zero => simp [pinsAfter]
      | succ j =>
        simp only [List.map_cons, List.pairwise_cons] at hp ih
        exact Nat.le_trans (hp.1 _ (by simp)) (ih q j hp.2)
  exact key _ _ _ h

theorem frameStamps_append (a b : List Event) : frameStamps (a ++ b) = frameStamps a ++ frameStamps b := by
  induction a with
  | nil => rfl
  | cons e es ih => cases e <;> simp [frameStamps, ih]

/-- A reset starts the count of frames anew (rules R45, R222). -/
@[simp] theorem frameStamps_resetTrace (build : Config) (c : CoreState) : frameStamps (resetTrace build c) = [] := by
  rcases resetTrace_cases build c with h | ⟨x, h⟩ <;> rw [h] <;> rfl

@[simp] theorem frameStamps_diagEvent (build : Config) (k : Nat) : frameStamps (diagEvent build k) = [] := by
  unfold diagEvent
  split <;> rfl

/-- The timestamps of a frame trace are those of its frames (rule R174). -/
@[simp] theorem frameStamps_framesTrace (build : Config) (k : Nat) (fs : List (Stamp × Bool)) :
    frameStamps (framesTrace build k fs) = fs.map (fun f => f.1.toNat) := by
  induction fs generalizing k with
  | nil => rfl
  | cons f fs ih =>
    obtain ⟨ts, sent⟩ := f
    simp only [framesTrace, frameStamps_append, frameStamps_diagEvent, List.nil_append, List.map_cons]
    cases sent <;> simp [frameEvent, frameStamps, ih]

/-- One more frame at the end of a frame trace (rule R174). -/
theorem framesTrace_snoc (build : Config) (k : Nat) (fs : List (Stamp × Bool)) (ts : Stamp) (sent : Bool) :
    framesTrace build k (fs ++ [(ts, sent)])
      = framesTrace build k fs ++ (diagEvent build (k + fs.length) ++ [frameEvent build (k + fs.length) sent ts]) := by
  induction fs generalizing k with
  | nil => simp [framesTrace]
  | cons f fs ih =>
    obtain ⟨ts', sent'⟩ := f
    have hk : k + 1 + fs.length = k + (fs.length + 1) := by omega
    simp [framesTrace, ih, hk]

@[simp] theorem hueOfFrame_zero (build : Config) : hueOfFrame build 0 = build.hueInit := by
  simp [hueOfFrame]

/-- The hue of the next frame is one HUE_STEP further (rules R167, R170). -/
theorem hueOfFrame_succ (build : Config) (k : Nat) : hueOfFrame build (k + 1) = hueOfFrame build k + build.hueStep := by
  apply BitVec.eq_of_toNat_eq
  simp only [hueOfFrame, BitVec.toNat_ofNat, BitVec.toNat_add]
  rw [Nat.add_mul]
  omega

end Sys2Proof.Machine
end

