-- ==== Sys2Proof/Machine/Timing.lean ====
section
/-! DEFINITION. The durations that follow from the build (rules R129, R149, R233, R240; log 24). No operation uses one. -/

namespace Sys2Proof.Machine

/-- The duration of `n` cells in nanoseconds, rounded down (rule R240: cell time `1/F_BUS_HZ`). -/
def cellNanos (build : Config) (n : Nat) : Nat :=
  n * 1000000000 / build.fBusHz

/-- The duration of `n` ticks in nanoseconds, rounded down (rule R40: one tick is `1/TICK_HZ`). -/
def tickNanos (build : Config) (n : Nat) : Nat :=
  n * 1000000000 / build.tickHz

/-- A frame on the wire is no longer than the frame period (rule R233). -/
def frameFitsPeriod (build : Config) : Bool :=
  decide (build.frameCells * build.tickHz ≤ build.framePeriodTicks * build.fBusHz)

end Sys2Proof.Machine
end

