-- ==== Sys2Proof/Tests/Slice0.lean ====
section
/-! SUPPORT. The model's own tests. Expected results are the vectors and examples of 95_test_vectors.md (their numbers
stand at each test) or are written out from the tables of 30_encoding.md; and for every obligation with hypotheses a
witness that meets them all. -/

namespace Sys2Proof.Tests

open Sys2Proof Sys2Proof.Machine

/-! ### Helpers -/

/-- A build with a short gap: a frame of 104 cells. -/
def small : Config := { Config.default with resetCells := 8 }

/-- Registers with a value in each. -/
def regs0 : Regs where
  hue := 0
  r := 100
  g := 0
  b := 0
  tstart := 1000
  framebuf := []
  txidx := 0
  phase := .init
  txerr := false
  fatal := false
  faultCode := .none
  line := false

/-- The small build at a phase, with the given pins. -/
def at0 (p : Phase) (pins : Pins) : State :=
  { State.reset with build := small, core.regs := { regs0 with phase := p }, env.pins := pins }

/-- The same at TRANSMIT with the frame of the colour (100, 0, 0) in the buffer and `n` cells driven. -/
def sending (n : Nat) (line : Bool) (pins : Pins) : State :=
  { at0 .transmit pins with
    core.regs.framebuf := Memory.write [] 0 (encodeFrame small [⟨100, 0, 0⟩])
    core.regs.txidx := n
    core.regs.line := line
    env.granted := decide (0 < n) }

/-- A value read off the next state; nothing if there is none. -/
def after {α : Type} (f : State → α) : Host.Outcome State Fault Refusal → Option α
  | .next s => some (f s)
  | .fault _ => none
  | .refused _ => none

/-! ### Codes -/

/-- Rule R84. -/
theorem test_phase_codes : [decode .phase 0b000, decode .phase 0b001, decode .phase 0b010, decode .phase 0b011,
    decode .phase 0b100, decode .phase 0b101, decode .phase 0b110, decode .phase 0b111]
    = [.ok .init, .ok .capture, .ok .convert, .ok .encode, .ok .transmit, .ok .advance, .ok .pace, .ok .halt] := by
  decide

/-- Rules R71, R102: hue in bits 23:16, saturation 0 in bits 15:8, value in bits 7:0 (vector V2). -/
theorem test_hsv_word : decode .hsv 0b110010000000000001001101 = .ok (.convertAchromatic 200 77) := by decide

/-- Rule R71: a word with a saturation is no achromatic row. -/
theorem test_hsv_chromatic_word : decode .hsv 0b000000001111111101100100 = .error .chromatic := by decide

/-- Rule R81. -/
theorem test_region_codes : [decode .region 0b000, decode .region 0b001, decode .region 0b010, decode .region 0b011,
    decode .region 0b100, decode .region 0b101]
    = [.ok .convertRegion0, .ok .convertRegion1, .ok .convertRegion2, .ok .convertRegion3, .ok .convertRegion4,
      .ok .convertRegion5] := by decide

/-- Rule R74. -/
theorem test_sym_codes : [decode .sym 0b1000, decode .sym 0b1110, decode .sym 0b0000]
    = [.ok .sym0, .ok .sym1, .ok .gapcell] := by decide

/-- Rule R76. -/
theorem test_busbyte_codes : [decode .busbyte 0b10001000, decode .busbyte 0b10001110, decode .busbyte 0b11101000,
    decode .busbyte 0b11101110, decode .busbyte 0b00000000]
    = [.ok .bb00, .ok .bb01, .ok .bb10, .ok .bb11, .ok .bbgap] := by decide

/-- Rule R86. -/
theorem test_fault_codes : [decode .fault 0b00, decode .fault 0b01, decode .fault 0b10, decode .fault 0b11]
    = [.ok .faultNone, .ok .faultInitFailure, .ok .faultReserved2, .ok .faultReserved3] := by decide

/-- Rule R28. -/
theorem test_txerr_codes : [decode .txerr 0, decode .txerr 1] = [.ok .txerrOk, .ok .txerrTransportError] := by decide

/-- Rule R88 (a) to (c). -/
theorem test_stray_codes : [decode .region 0b110, decode .region 0b111, decode .sym 0b1100, decode .sym 0b1111,
    decode .busbyte 0x89] = [.error .unreachableRegion, .error .unreachableRegion, .error .invalidSymbol,
    .error .invalidSymbol, .error .invalidBusByte] := by decide

/-- Bare numbers, each width in its order of formats (log 17). -/
theorem test_table_words : decodeTableWord 8 0b100 = some .transmit ∧ decodeTableWord 8 0b1000 = some .sym0
    ∧ decodeTableWord 8 0b11101000 = some .bb10 ∧ decodeTableWord 8 0b1001 = none
    ∧ decodeTableWord 24 0b110010000000000001001101 = some (.convertAchromatic 200 77)
    ∧ decodeTableWord 2 0b01 = some .faultInitFailure := by decide

/-! ### WellFormed and the builds the model refuses -/

/-- Rule R88 (d). -/
theorem test_reserved_faults_not_wf : Instr.faultReserved2.wf = false ∧ Instr.faultReserved3.wf = false := by decide

theorem test_table_rows_wf : Instr.faultInitFailure.wf = true ∧ (Instr.convertAchromatic 255 255).wf = true := by decide

theorem test_default_build_ok : Config.default.ok = true ∧ Config.default.frameCells = 1216
    ∧ Config.default.tSplitOk = true ∧ small.ok = true := by decide

/-- Rule R131 (a): a pattern of three cells in a build of four. -/
theorem test_short_pattern : buildRefusal { Config.default with pat0 := [true, false, false] } = some .parameterSet := by
  decide

/-- Rule R131 (b): a pattern that is no run of ones and then zeros; one without ones; one without zeros. -/
theorem test_bad_patterns : buildRefusal { Config.default with pat0 := [false, true, false, false] } = some .parameterSet
    ∧ buildRefusal { Config.default with pat0 := [false, false, false, false] } = some .parameterSet
    ∧ buildRefusal { Config.default with pat1 := [true, true, true, true] } = some .parameterSet := by decide

/-- Rule R131 (c): the high time of a 1 is no longer than that of a 0. -/
theorem test_equal_patterns : buildRefusal { Config.default with pat1 := [true, false, false, false] }
    = some .parameterSet := by decide

/-- Rule R131 (a): one cell a bit leaves no room for a pattern. -/
theorem test_one_cell_a_bit : buildRefusal { Config.default with nCell := 1, pat0 := [true], pat1 := [true] }
    = some .parameterSet := by decide

/-- Rules R9, R53: `CH_ORDER` with a colour twice, or with one missing. -/
theorem test_bad_channel_order : buildRefusal { Config.default with chOrder := [.green, .green, .blue] }
      = some .parameterSet
    ∧ buildRefusal { Config.default with chOrder := [.green, .red] } = some .parameterSet := by decide

/-- Rule R56: 1217 cells on a bus of bytes are refused, on another bus not. -/
theorem test_ragged_frame : buildRefusal { Config.default with resetCells := 1121 } = some .parameterSet
    ∧ buildRefusal { Config.default with resetCells := 1121, byteBus := false } = none := by decide

/-- Rule R132: two pixels have an encoding and no scheduler. -/
theorem test_two_pixels : buildRefusal { Config.default with npix := 2 } = some .schedulerNeedsOnePixel := by decide

/-! ### The Color Converter -/

/-- Vectors V1 to V3: grey. -/
theorem test_convert_grey : convert 0 0 0 = ⟨0, 0, 0⟩ ∧ convert 200 0 77 = ⟨77, 77, 77⟩
    ∧ convert 255 0 255 = ⟨255, 255, 255⟩ := by decide

/-- Vectors V20 to V24, V27, V28, V31 to V33, V35. -/
theorem test_convert_vectors : convert 255 255 255 = ⟨255, 0, 15⟩ ∧ convert 214 255 255 = ⟨252, 0, 255⟩
    ∧ convert 100 128 200 = ⟨99, 200, 132⟩ ∧ convert 1 1 1 = ⟨1, 0, 0⟩ ∧ convert 255 1 255 = ⟨255, 253, 254⟩
    ∧ convert 64 128 128 = ⟨96, 128, 63⟩ ∧ convert 150 200 50 = ⟨10, 30, 50⟩ ∧ convert 43 128 255 = ⟨254, 255, 126⟩
    ∧ convert 129 1 1 = ⟨0, 0, 1⟩ ∧ convert 215 254 254 = ⟨254, 0, 253⟩ ∧ convert 128 255 255 = ⟨0, 255, 252⟩ := by
  decide

/-- Vector V22, term by term; V19: the remainder stops at 240 in region 5. -/
theorem test_convert_terms : (region 100).val = 2 ∧ remainder 100 = 84 ∧ termP 128 200 = 99 ∧ termQ 100 128 200 = 166
    ∧ termT 100 128 200 = 132 ∧ (region 255).val = 5 ∧ remainder 255 = 240 := by decide

/-- The hue table of 95_test_vectors.md section 3, `0xRRGGBB` for each hue. -/
def hueTable : List Nat :=
  [0x640000, 0x640200, 0x640500, 0x640700, 0x640900, 0x640C00, 0x640E00, 0x641000,
    0x641300, 0x641500, 0x641700, 0x641A00, 0x641C00, 0x641E00, 0x642100, 0x642300,
    0x642500, 0x642800, 0x642A00, 0x642C00, 0x642F00, 0x643100, 0x643300, 0x643600,
    0x643800, 0x643A00, 0x643D00, 0x643F00, 0x644200, 0x644400, 0x644600, 0x644900] ++
  [0x644B00, 0x644D00, 0x645000, 0x645200, 0x645400, 0x645700, 0x645900, 0x645B00,
    0x645E00, 0x646000, 0x646200, 0x636400, 0x616400, 0x5F6400, 0x5C6400, 0x5A6400,
    0x586400, 0x556400, 0x536400, 0x516400, 0x4E6400, 0x4C6400, 0x4A6400, 0x476400,
    0x456400, 0x436400, 0x406400, 0x3E6400, 0x3C6400, 0x396400, 0x376400, 0x356400] ++
  [0x326400, 0x306400, 0x2E6400, 0x2B6400, 0x296400, 0x276400, 0x246400, 0x226400,
    0x206400, 0x1D6400, 0x1B6400, 0x196400, 0x166400, 0x146400, 0x116400, 0x0F6400,
    0x0D6400, 0x0A6400, 0x086400, 0x066400, 0x036400, 0x016400, 0x006400, 0x006402,
    0x006405, 0x006407, 0x006409, 0x00640C, 0x00640E, 0x006410, 0x006413, 0x006415] ++
  [0x006417, 0x00641A, 0x00641C, 0x00641E, 0x006421, 0x006423, 0x006425, 0x006428,
    0x00642A, 0x00642C, 0x00642F, 0x006431, 0x006433, 0x006436, 0x006438, 0x00643A,
    0x00643D, 0x00643F, 0x006442, 0x006444, 0x006446, 0x006449, 0x00644B, 0x00644D,
    0x006450, 0x006452, 0x006454, 0x006457, 0x006459, 0x00645B, 0x00645E, 0x006460] ++
  [0x006462, 0x006364, 0x006164, 0x005F64, 0x005C64, 0x005A64, 0x005864, 0x005564,
    0x005364, 0x005164, 0x004E64, 0x004C64, 0x004A64, 0x004764, 0x004564, 0x004364,
    0x004064, 0x003E64, 0x003C64, 0x003964, 0x003764, 0x003564, 0x003264, 0x003064,
    0x002E64, 0x002B64, 0x002964, 0x002764, 0x002464, 0x002264, 0x002064, 0x001D64] ++
  [0x001B64, 0x001964, 0x001664, 0x001464, 0x001164, 0x000F64, 0x000D64, 0x000A64,
    0x000864, 0x000664, 0x000364, 0x000164, 0x000064, 0x020064, 0x050064, 0x070064,
    0x090064, 0x0C0064, 0x0E0064, 0x100064, 0x130064, 0x150064, 0x170064, 0x1A0064,
    0x1C0064, 0x1E0064, 0x210064, 0x230064, 0x250064, 0x280064, 0x2A0064, 0x2C0064] ++
  [0x2F0064, 0x310064, 0x330064, 0x360064, 0x380064, 0x3A0064, 0x3D0064, 0x3F0064,
    0x420064, 0x440064, 0x460064, 0x490064, 0x4B0064, 0x4D0064, 0x500064, 0x520064,
    0x540064, 0x570064, 0x590064, 0x5B0064, 0x5E0064, 0x600064, 0x620064, 0x640063,
    0x640061, 0x64005F, 0x64005C, 0x64005A, 0x640058, 0x640055, 0x640053, 0x640051] ++
  [0x64004E, 0x64004C, 0x64004A, 0x640047, 0x640045, 0x640043, 0x640040, 0x64003E,
    0x64003C, 0x640039, 0x640037, 0x640035, 0x640032, 0x640030, 0x64002E, 0x64002B,
    0x640029, 0x640027, 0x640024, 0x640022, 0x640020, 0x64001D, 0x64001B, 0x640019,
    0x640016, 0x640014, 0x640011, 0x64000F, 0x64000D, 0x64000A, 0x640008, 0x640006]

theorem test_hue_table : (List.range 256).map (fun h =>
    let c := convert (BitVec.ofNat 8 h) 255 100
    c.r.toNat * 2 ^ 16 + c.g.toNat * 2 ^ 8 + c.b.toNat) = hueTable := by
  decide +kernel

/-! ### The Protocol Encoder -/

/-- Vectors E1, E4, E10: the bytes of the pixel part. -/
theorem test_frame_bytes :
    byteView 12 (encodeFrame Config.default [⟨100, 0, 0⟩])
      = [0x88, 0x88, 0x88, 0x88, 0x8E, 0xE8, 0x8E, 0x88, 0x88, 0x88, 0x88, 0x88]
    ∧ byteView 12 (encodeFrame Config.default [⟨0x12, 0x34, 0x56⟩])
      = [0x88, 0xEE, 0x8E, 0x88, 0x88, 0x8E, 0x88, 0xE8, 0x8E, 0x8E, 0x8E, 0xE8]
    ∧ byteView 12 (encodeFrame Config.default [⟨170, 85, 255⟩])
      = [0x8E, 0x8E, 0x8E, 0x8E, 0xE8, 0xE8, 0xE8, 0xE8, 0xEE, 0xEE, 0xEE, 0xEE] := by decide +kernel

/-- Vector E11: two pixels with no gap between them. -/
theorem test_two_pixel_frame : byteView 26 (encodeFrame Config.default [⟨255, 0, 0⟩, ⟨0, 0, 255⟩])
    = [0x88, 0x88, 0x88, 0x88, 0xEE, 0xEE, 0xEE, 0xEE, 0x88, 0x88, 0x88, 0x88,
      0x88, 0x88, 0x88, 0x88, 0x88, 0x88, 0x88, 0x88, 0xEE, 0xEE, 0xEE, 0xEE, 0x00, 0x00] := by decide +kernel

/-- Vectors K1 to K6. -/
theorem test_decode_groups : decodeGroups Config.default 2 (byteBits 0x88) = [some false, some false]
    ∧ decodeGroups Config.default 2 (byteBits 0x8E) = [some false, some true]
    ∧ decodeGroups Config.default 2 (byteBits 0xE8) = [some true, some false]
    ∧ decodeGroups Config.default 2 (byteBits 0xEE) = [some true, some true]
    ∧ decodeGroup Config.default [true, true, false, false] = none
    ∧ decodeGroup Config.default [false, true, true, true] = none := by decide

/-- Vector K7, and its frame in the time domain with a latch threshold of eight cells. -/
theorem test_decode_frame : decodeFrame small 1 (encodeFrame small [⟨0x12, 0x34, 0x56⟩]) = some [⟨0x12, 0x34, 0x56⟩]
    ∧ decodeRuns small 8 (runsFrom 0 0 (encodeFrame small [⟨0x12, 0x34, 0x56⟩]))
      = byteBits 0b00110100 ++ byteBits 0b00010010 ++ byteBits 0b01010110 := by decide +kernel

/-- Vector K8: high runs of one and of three cells, `T_SPLIT` two. -/
theorem test_decode_runs : decodeRuns Config.default 8 [(1, 3), (3, 1)] = [false, true] := by decide

/-! ### The operations: vectors O1 to O19 -/

/-- O1, O2. -/
theorem test_init_waits_and_starts :
    after (fun t => (t.core.regs.phase, t.core.trace)) (exec .init (at0 .init Pins.quiet)) = some (.init, [])
    ∧ after (fun t => (t.core.regs.phase, t.core.trace))
        (exec .init (at0 .init { Pins.quiet with busInitDone := true, busInitOk := true })) = some (.capture, []) := by
  decide

/-- O3. -/
theorem test_init_fails : after (fun t => (t.core.regs.phase, t.core.regs.fatal, t.core.regs.faultCode.code, t.core.trace))
    (exec .init (at0 .init { Pins.quiet with busInitDone := true }))
    = some (.halt, true, 0b01, [.fatal .initFailure]) := by decide

/-- O4. -/
theorem test_capture : after (fun t => (t.core.regs.tstart, t.core.regs.phase))
    (exec .capture (at0 .capture { Pins.quiet with now := 123456 })) = some (123456, .convert) := by decide

/-- O6. -/
theorem test_convert : after (fun t => (t.core.regs.rgb, t.core.regs.phase, t.core.trace, t.core.diag))
    (exec .convert { at0 .convert Pins.quiet with core.regs.hue := 128 })
    = some (⟨0, 100, 98⟩, .encode, [.diag 128], some 128) := by decide

/-- O7. -/
theorem test_encode : after (fun t => ((t.core.regs.framebuf.read 0 104).map (byteView 13), t.core.regs.phase))
    (exec .encode (at0 .encode Pins.quiet))
    = some (some [0x88, 0x88, 0x88, 0x88, 0x8E, 0xE8, 0x8E, 0x88, 0x88, 0x88, 0x88, 0x88, 0x00], .transmit) := by
  decide +kernel

/-- O9. -/
theorem test_transmit_rejected : after (fun t => (t.core.regs.txerr, t.core.regs.line, t.core.regs.phase, t.core.trace))
    (exec .transmit (sending 0 false { Pins.quiet with busReject := true, cellEn := true }))
    = some (true, false, .advance, [.frameDropped 1000]) := by decide +kernel

/-- The per-cell form on frame E1: cell 0 is high, cell 1 low, cell 36 high, cell 39 low. -/
theorem test_transmit_cells : [0, 1, 36, 39].map (fun n => after (fun t => (t.core.regs.txidx, t.core.regs.line, t.core.regs.phase))
      (exec .transmit (sending n false { Pins.quiet with cellEn := true })))
    = [some (1, true, .transmit), some (2, false, .transmit), some (37, true, .transmit),
      some (40, false, .transmit)] := by decide +kernel

/-- O10, O11, O12, O13. -/
theorem test_advance : [0, 254, 255, 10].map (fun h => after (fun t => (t.core.regs.hue, t.core.regs.txerr, t.core.regs.phase))
      (exec .advance { at0 .advance Pins.quiet with core.regs.hue := h, core.regs.txerr := true }))
    = [some (2, true, .pace), some (0, true, .pace), some (1, true, .pace), some (12, true, .pace)] := by decide

/-- O14 to O17, with TSTART = 1000. -/
theorem test_pace : [1000, 20999, 21000, 26000].map (fun n => after (fun t => t.core.regs.phase)
      (exec .pace (at0 .pace { Pins.quiet with now := n }))) = [some .pace, some .pace, some .capture, some .capture] := by
  decide

/-- The clock wraps between TSTART and the read: the elapsed time is modulo 2^64 (rule R168). -/
theorem test_pace_wraps : after (fun t => t.core.regs.phase)
    (exec .pace { at0 .pace { Pins.quiet with now := 9999 } with core.regs.tstart := BitVec.ofNat 64 (2 ^ 64 - 10001) })
    = some .capture := by decide

/-- O18. -/
theorem test_halt : after (fun t => (t.core.regs.phase, t.core.regs.fatal, t.core.trace))
    (exec .halt { at0 .halt Pins.quiet with core.regs.fatal := true }) = some (.halt, true, []) := by decide

/-- O19. -/
theorem test_reset_step : after (fun t => (t.core.regs.phase, t.core.regs.hue, t.core.regs.fatal, t.core.regs.txerr, t.core.trace))
    (step { at0 .halt { Pins.quiet with rst := true } with
      core.regs.hue := 86, core.regs.fatal := true, core.regs.txerr := true, core.trace := [.fatal .initFailure] })
    = some (.init, 0, false, false, []) := by decide

/-! ### The rows that are codes of a unit -/

/-- Rule R102 with the operand of vector V2. -/
theorem test_achromatic_row : after (fun t => (t.core.regs.rgb, t.core.regs.phase))
    (exec (.convertAchromatic 200 77) (at0 .convert Pins.quiet)) = some (⟨77, 77, 77⟩, .encode) := by decide

/-- Vectors V7, V9, V11, V14, V17, V19: one row of each region at the last hue of it. -/
theorem test_region_rows :
    [(Instr.convertRegion0, (42 : U8)), (.convertRegion1, 85), (.convertRegion2, 128), (.convertRegion3, 171),
      (.convertRegion4, 214), (.convertRegion5, 255)].map (fun x => after (fun t => t.core.regs.rgb)
        (exec x.1 { at0 .convert Pins.quiet with core.regs.hue := x.2 }))
    = [some ⟨100, 98, 0⟩, some ⟨1, 100, 0⟩, some ⟨0, 100, 98⟩, some ⟨0, 1, 100⟩, some ⟨98, 0, 100⟩,
      some ⟨100, 0, 6⟩] := by decide

/-- Rule R74: the cells on the line. -/
theorem test_symbol_rows : [Instr.sym0, .sym1, .gapcell].map (fun i => after (fun t => (t.core.mosi, t.core.regs.txidx, t.core.regs.line))
      (exec i { at0 .transmit Pins.quiet with core.mosi := [] }))
    = [some ([true, false, false, false], 4, false), some ([true, true, true, false], 4, false),
      some ([false, false, false, false], 4, false)] := by decide

/-- Rule R76: bit 7 first. -/
theorem test_busbyte_rows : [Instr.bb00, .bb01, .bb10, .bb11, .bbgap].map (fun i => after (fun t => t.core.mosi)
      (exec i { at0 .transmit Pins.quiet with core.mosi := [] }))
    = [some [true, false, false, false, true, false, false, false],
      some [true, false, false, false, true, true, true, false],
      some [true, true, true, false, true, false, false, false],
      some [true, true, true, false, true, true, true, false],
      some [false, false, false, false, false, false, false, false]] := by decide

/-- A group that ends with the frame fits; one cell later it does not (log 14). -/
theorem test_group_at_the_end :
    after (fun t => t.core.regs.txidx) (exec .sym0 { at0 .transmit Pins.quiet with core.regs.txidx := 100 }) = some 104
    ∧ exec .sym0 { at0 .transmit Pins.quiet with core.regs.txidx := 101 } = .fault .cellIndexOutOfRange
    ∧ exec .bb11 { at0 .transmit Pins.quiet with core.regs.txidx := 97 } = .fault .cellIndexOutOfRange :=
  ⟨by decide, rfl, rfl⟩

/-- Rules R86, R191. -/
theorem test_fault_rows : after (fun t => (t.core.regs.phase, t.core.regs.fatal, t.core.trace)) (exec .faultNone (at0 .pace Pins.quiet))
      = some (.pace, false, [])
    ∧ after (fun t => (t.core.regs.phase, t.core.regs.faultCode.code, t.core.trace)) (exec .faultInitFailure (at0 .init Pins.quiet))
      = some (.halt, 0b01, [.fatal .initFailure])
    ∧ exec .faultReserved2 (at0 .init Pins.quiet) = .refused .reservedFaultCode
    ∧ exec .faultReserved3 (at0 .init Pins.quiet) = .refused .reservedFaultCode :=
  ⟨by decide, by decide, rfl, rfl⟩

/-- O8: the atomic form. -/
theorem test_txerr_ok_row : after (fun t => (t.core.regs.txerr, t.core.regs.line, t.core.regs.phase, t.core.trace))
    (exec .txerrOk { sending 0 false Pins.quiet with core.regs.txerr := true })
    = some (false, false, .advance, [.frameSent (encodeFrame small [⟨100, 0, 0⟩]) 1000]) := by decide +kernel

/-- O9 as a row; and a completion with nothing in the buffer is a fault (U10). -/
theorem test_txerr_rows : after (fun t => (t.core.regs.txerr, t.core.regs.phase, t.core.trace))
      (exec .txerrTransportError (at0 .transmit Pins.quiet)) = some (true, .advance, [.frameDropped 1000])
    ∧ exec .txerrOk (at0 .transmit Pins.quiet) = .fault .cellHasNoValue := ⟨by decide, rfl⟩

/-! ### Steps -/

/-- From reset the core waits in INIT; with the verdict it goes to CAPTURE (rules R161, R162; log 18). -/
theorem test_first_step : after (fun t => t.core.regs.phase) (step State.reset) = some .init
    ∧ after (fun t => t.core.regs.phase)
        (step { State.reset with env.pins := { Pins.quiet with busInitDone := true, busInitOk := true } }) = some .capture := by
  decide

/-- A placed PHASE code, an HSV word and a symbol run in the very next step (log 18). -/
theorem test_placed_words :
    after (fun t => t.core.regs.phase) (step (State.reset.withFetchWord 8 0b101)) = some .pace
    ∧ after (fun t => t.core.regs.rgb) (step (State.reset.withFetchWord 24 0b110010000000000001001101)) = some ⟨77, 77, 77⟩
    ∧ after (fun t => (t.core.mosi, t.core.regs.txidx)) (step (State.reset.withFetchWord 8 0b1110)) = some ([true], 1) := by
  decide +kernel

/-- A reset after three cells of frame E1 leaves them in the trace (rule R222). -/
theorem test_reset_cuts_a_transfer : after (fun t => (t.core.regs.line, t.core.trace))
    (step (sending 3 false { Pins.quiet with rst := true })) = some (false, [.frameAborted [true, false, false]]) := by
  decide +kernel

/-- The environment's turn: the next levels, then those of the script's end (log 4). -/
theorem test_script : after (fun t => (t.env.pins.now, t.env.script))
    (step { at0 .capture Pins.quiet with env.script := [{ Pins.quiet with now := 7 }] }) = some (7, [])
    ∧ after (fun t => t.env.pins.now) (step (at0 .capture { Pins.quiet with now := 5 })) = some 5 := by decide

/-- The table of rule R240, in nanoseconds: protocol bit, pixel, gap, frame, period; the frame fits the period. -/
theorem test_durations : cellNanos Config.default 4 = 1333 ∧ cellNanos Config.default 96 = 32000
    ∧ cellNanos Config.default 1120 = 373333 ∧ cellNanos Config.default 1216 = 405333
    ∧ tickNanos Config.default 20000 = 20000000 ∧ frameFitsPeriod Config.default = true := by decide

/-! ### Witnesses: for each obligation with hypotheses, states and operands that meet them all, at the bounds of each
clause -/

theorem test_witness_StrayCodesAreRejectedByName :
    (6 ≤ 6 ∧ 6 < 8 ∧ 6 ≤ 7 ∧ 7 < 8) ∧ (0b1001 < 16 ∧ 0b1001 ≠ 0b1000 ∧ 0b1001 ≠ 0b1110 ∧ 0b1001 ≠ 0b0000)
      ∧ (0xFF < 256 ∧ 0xFF ≠ 0x88 ∧ 0xFF ≠ 0x8E ∧ 0xFF ≠ 0xE8 ∧ 0xFF ≠ 0xEE ∧ 0xFF ≠ 0x00)
      ∧ (decode .fault 1 = .ok .faultInitFailure ∧ decode .fault 2 = .ok .faultReserved2) ∧ 7 < 8 := by decide

theorem test_witness_NoTwoRowsOfAFormatShareACode :
    Instr.sym0.format = Instr.sym0.format ∧ encode .sym0 = encode .sym0 := by decide

theorem test_witness_HueGivesRegionAndRemainder :
    (region 42).val = 0 ∧ (region 43).val = 1 ∧ (region 214).val = 4 ∧ (region 215).val = 5 ∧ (region 255).val = 5 := by
  decide

theorem test_witness_ConvertFollowsTheAlgorithm :
    (0 : U8) = 0 ∧ (1 : U8) ≠ 0
      ∧ [(0 : U8), 42, 43, 85, 86, 128, 129, 171, 172, 214, 215, 255].map (fun h => h.toNat / 43)
        = [0, 0, 1, 1, 2, 2, 3, 3, 4, 4, 5, 5] := by decide

theorem test_witness_ConverterTermsAreBounded :
    1 ≤ (1 : U8).toNat ∧ 1 ≤ (1 : U8).toNat ∧ (0 : U8) = 0 ∧ (255 : U8) = 255 := by decide

theorem test_witness_SixteenBitsAreEnoughForTheTerms :
    16 ≤ 16 ∧ 1 ≤ (1 : U8).toNat ∧ remainder 0 = 0 ∧ (255 : U8).toNat * remainder 0 / 256 = 0 := by decide

theorem test_witness_ConvertHasTheSourceProperties : 1 ≤ (1 : U8).toNat ∧ 1 ≤ (255 : U8).toNat := by decide

theorem test_witness_PixelWordIsInWireOrder :
    Config.default.ok = true ∧ 0 < 24 ∧ 23 < 24 ∧ Config.default.chOrder = [.green, .red, .blue] := by decide

theorem test_witness_FrameHasItsLayout :
    Config.default.ok = true ∧ [(⟨100, 0, 0⟩ : RGB), ⟨0, 0, 100⟩][1]? = some ⟨0, 0, 100⟩
      ∧ (pixWord Config.default ⟨0, 0, 100⟩)[23]? = some false ∧ 3 < Config.default.nCell
      ∧ 1119 < Config.default.resetCells ∧ [(⟨100, 0, 0⟩ : RGB), ⟨0, 0, 100⟩] ≠ [] := by decide

theorem test_witness_FrameHasTheShapeOfItsPatterns :
    Config.default.ok = true ∧ Config.default.nCell = 4 ∧ Config.default.pat0 = [true, false, false, false]
      ∧ Config.default.pat1 = [true, true, true, false] ∧ [(⟨100, 0, 0⟩ : RGB)].length = Config.default.npix
      ∧ [(⟨100, 0, 0⟩ : RGB)] ≠ [] ∧ 95 < 96 * Config.default.npix ∧ 92 + 3 < 96 * Config.default.npix := by decide

theorem test_witness_EncodedFrameDecodesToItsPixels :
    Config.default.ok = true ∧ Config.default.tSplitOk = true
      ∧ Config.default.nCell - Config.highCells Config.default.pat0 < 4
      ∧ Config.default.nCell - Config.highCells Config.default.pat0 < 1120
      ∧ 4 ≤ Config.default.resetCells ∧ 1120 ≤ Config.default.resetCells := by decide

theorem test_witness_ByteViewIsTheSameWaveform :
    (byteBits 0x88).length = 8 * 1 ∧ 0 < 1 ∧ 0 < 8 ∧ 7 < 8 := by decide

theorem test_witness_InitFollowsTheVerdict :
    Pins.quiet.busInitDone = false
      ∧ (∃ p : Pins, p.busInitDone = true ∧ p.busInitOk = true) ∧ ∃ p : Pins, p.busInitDone = true ∧ p.busInitOk = false :=
  ⟨rfl, ⟨{ Pins.quiet with busInitDone := true, busInitOk := true }, rfl, rfl⟩,
    ⟨{ Pins.quiet with busInitDone := true }, rfl, rfl⟩⟩

theorem test_witness_ConvertWritesTheColourOfTheHue :
    ({ at0 .convert Pins.quiet with build.sat := 0 } : State).build.sat = 0 := rfl

theorem test_witness_EncodeFillsTheFrameBuffer :
    buildRefusal (at0 .encode Pins.quiet).build = none ∧ 0 < (at0 .encode Pins.quiet).build.frameCells
      ∧ (at0 .encode Pins.quiet).build.frameCells ≤ 104 ∧ (at0 .encode Pins.quiet).core.regs.framebuf.wf :=
  ⟨by decide, by decide, by decide, wf_nil⟩

theorem test_witness_RejectedTransferDrivesNothing :
    let s := sending 0 false { Pins.quiet with busReject := true }
    s.env.granted = false ∧ s.core.regs.txidx = 0 ∧ s.env.pins.busReject = true := by decide

/-- The first cell on entry, and the last cell of the frame. -/
theorem test_witness_CellPulseDrivesTheNextCell :
    (let s := sending 0 false { Pins.quiet with cellEn := true };
      s.env.pins.busReject = false ∧ s.core.regs.txidx < s.build.frameCells ∧ s.env.pins.cellEn = true
        ∧ s.core.regs.framebuf.readCell s.core.regs.txidx = some true)
      ∧ (let s := sending 103 false { Pins.quiet with cellEn := true, busReject := true };
        s.env.granted = true ∧ s.core.regs.txidx < s.build.frameCells ∧ s.env.pins.cellEn = true
          ∧ s.core.regs.framebuf.readCell s.core.regs.txidx = some false) := by decide +kernel

theorem test_witness_TransmitWaitsWithoutAPulse :
    (let s := sending 0 false Pins.quiet;
      s.env.pins.busReject = false ∧ s.core.regs.txidx < s.build.frameCells ∧ s.env.pins.cellEn = false)
      ∧ (let s := sending 103 false { Pins.quiet with busReject := true };
        0 < s.core.regs.txidx ∧ s.core.regs.txidx < s.build.frameCells ∧ s.env.pins.cellEn = false) := by decide +kernel

/-- The invariant holds on entry to a transfer, in the middle of it on a high line, and after the last cell. -/
theorem test_machineInv_entry : MachineInv (sending 0 false { Pins.quiet with cellEn := true }) := by
  unfold MachineInv BuildInv HaltInv TransportInv BufferInv DataInv HueInv
  decide +kernel

theorem test_machineInv_middle : MachineInv (sending 1 true { Pins.quiet with rst := true }) := by
  unfold MachineInv BuildInv HaltInv TransportInv BufferInv DataInv HueInv
  decide +kernel

theorem test_machineInv_end : MachineInv (sending 104 false Pins.quiet) := by
  unfold MachineInv BuildInv HaltInv TransportInv BufferInv DataInv HueInv
  decide +kernel

theorem test_witness_CompletedTransferIsRecorded :
    let s := sending 104 false Pins.quiet
    s.env.granted = true ∧ 0 < s.core.regs.txidx ∧ s.core.regs.txidx = s.build.frameCells
      ∧ s.core.regs.framebuf.read 0 s.build.frameCells = some (encodeFrame small [⟨100, 0, 0⟩])
      ∧ MachineInv s ∧ s.core.regs.phase = .transmit ∧ 0 < s.build.resetCells :=
  ⟨by decide, by decide, by decide, by decide +kernel, test_machineInv_end, rfl, by decide⟩

/-- Elapsed times of exactly the period and of one tick less. -/
theorem test_witness_PaceComparesTheElapsedTime :
    20000 ≤ (21000 + 2 ^ 64 - 1000) % 2 ^ 64 ∧ (20999 + 2 ^ 64 - 1000) % 2 ^ 64 < 20000 := by decide

/-- Halted after a failed initialisation. -/
def haltedState : State :=
  { at0 .halt Pins.quiet with
    core.regs.fatal := true, core.regs.faultCode := .initFailure, core.trace := [.fatal .initFailure] }

theorem test_machineInv_halted : MachineInv haltedState := by
  unfold MachineInv BuildInv HaltInv TransportInv BufferInv DataInv HueInv
  decide

/-- A step that stays in HALT, and one that enters it. -/
theorem test_witness_HaltIsLeftByResetOnly :
    (∃ t, step haltedState = .next t ∧ haltedState.core.regs.phase = .halt ∧ haltedState.env.pins.rst = false)
      ∧ (∃ t, step (at0 .init { Pins.quiet with busInitDone := true }) = .next t ∧ t.core.regs.phase = .halt
        ∧ (at0 .init { Pins.quiet with busInitDone := true }).core.regs.phase ≠ .halt)
      ∧ MachineInv haltedState :=
  ⟨⟨_, rfl, rfl, rfl⟩, ⟨_, rfl, rfl, by decide⟩, test_machineInv_halted⟩

theorem test_witness_InitFailureHaltsTheCore :
    (let s := at0 .init { Pins.quiet with busInitDone := true };
      s.env.pins.busInitDone = true ∧ s.env.pins.busInitOk = false
        ∧ ∃ t, step s = .next t ∧ s.core.regs.fatal = false ∧ t.core.regs.fatal = true)
      ∧ (∃ t, step haltedState = .next t ∧ haltedState.core.regs.fatal = true ∧ haltedState.env.pins.rst = false)
      ∧ MachineInv haltedState :=
  ⟨⟨rfl, rfl, _, rfl, rfl, rfl⟩, ⟨_, rfl, rfl, rfl⟩, test_machineInv_halted⟩

theorem test_witness_TransportErrorDropsTheFrame :
    let s := sending 0 false { Pins.quiet with busReject := true }
    s.env.granted = false ∧ s.core.regs.txidx = 0 ∧ s.env.pins.busReject = true
      ∧ ∃ t, step s = .next t ∧ s.core.regs.txerr = false ∧ t.core.regs.txerr = true :=
  ⟨rfl, rfl, rfl, _, rfl, rfl, rfl⟩

/-- The last group that fits and the first that does not, for groups of four and of eight cells. -/
theorem test_witness_SymbolRowsDriveTheirCells :
    small.ok = true ∧ 100 + small.nCell ≤ small.frameCells ∧ small.frameCells < 101 + small.nCell := by decide

theorem test_witness_BusByteRowsDriveTheirCells :
    96 + 8 ≤ small.frameCells ∧ small.frameCells < 97 + 8 := by decide

/-- The first symbol of frame E1 under pulses in every step. -/
theorem test_witness_CellGroupIsItsTransmitSteps :
    let s := { sending 0 false { Pins.quiet with cellEn := true } with env.granted := true }
    buildRefusal s.build = none
      ∧ (Instr.sym0, small.pat0) ∈ [(Instr.sym0, s.build.pat0), (.sym1, s.build.pat1),
        (.gapcell, List.replicate s.build.nCell false), (.bb00, byteBits 0x88), (.bb01, byteBits 0x8E),
        (.bb10, byteBits 0xE8), (.bb11, byteBits 0xEE), (.bbgap, byteBits 0x00)]
      ∧ s.core.regs.phase = .transmit ∧ s.env.granted = true ∧ s.core.regs.txidx + small.pat0.length ≤ s.build.frameCells
      ∧ (∀ k, k < small.pat0.length → s.core.regs.framebuf.readCell (s.core.regs.txidx + k) = small.pat0[k]?)
      ∧ NoReset s small.pat0.length ∧ (∀ k, k < small.pat0.length → (pinsAt s k).cellEn = true) := by
  unfold NoReset
  decide +kernel

theorem test_witness_TxerrOkIsTheAtomicTransfer :
    let s := sending 104 false Pins.quiet
    s.core.regs.framebuf.read 0 s.build.frameCells = some (encodeFrame small [⟨100, 0, 0⟩]) ∧ s.env.granted = true
      ∧ s.core.regs.txidx = s.build.frameCells := ⟨by decide +kernel, rfl, by decide⟩

theorem test_witness_RowsChangeOnlyTheirRegisters :
    ∃ t, exec .pace (at0 .pace Pins.quiet) = .next t ∧ Instr.pace ≠ .advance ∧ Instr.pace ≠ .convert
      ∧ Instr.pace ≠ .capture ∧ Instr.pace ≠ .encode ∧ Instr.pace ≠ .transmit ∧ Instr.pace ≠ .txerrOk
      ∧ Instr.pace ≠ .init ∧ Instr.pace ≠ .faultInitFailure ∧ Instr.pace.format = .phase :=
  ⟨_, rfl, by decide⟩

/-- A step that goes on, and one that stops with a fault: TRANSMIT with nothing in the buffer. -/
theorem test_witness_StepRunsTheDecodedOperation :
    (buildRefusal (at0 .pace Pins.quiet).build = none ∧ (at0 .pace Pins.quiet).env.pins.rst = false
        ∧ decode .phase (fetchCode (at0 .pace Pins.quiet).core) = .ok .pace
        ∧ ∃ u, exec .pace { at0 .pace Pins.quiet with core.sclk := [false], core.mosi := [], core.diag := none } = .next u)
      ∧ (let s := at0 .transmit { Pins.quiet with cellEn := true };
        decode .phase (fetchCode s.core) = .ok .transmit
          ∧ exec .transmit { s with core.sclk := [false], core.mosi := [], core.diag := none } = .fault .cellHasNoValue) :=
  ⟨⟨by decide, rfl, by decide, _, rfl⟩, by decide, rfl⟩

theorem test_witness_PlacedPhaseCodeRunsNext : buildRefusal State.reset.build = none := by decide

theorem test_witness_ResetInputWinsOverEveryOperation :
    let s := at0 .pace { Pins.quiet with rst := true }
    buildRefusal s.build = none ∧ s.env.pins.rst = true
      ∧ ¬ (s.core.regs.phase = .transmit ∧ 0 < s.core.regs.txidx ∧ s.core.regs.txidx < s.build.frameCells) := by decide

theorem test_witness_ResetMidTransferAbortsTheFrame :
    let s := sending 1 true { Pins.quiet with rst := true }
    MachineInv s ∧ s.env.pins.rst = true ∧ s.core.regs.phase = .transmit ∧ 0 < s.core.regs.txidx
      ∧ s.core.regs.txidx < s.build.frameCells :=
  ⟨test_machineInv_middle, rfl, rfl, by decide, by decide⟩

/-- One build for each clause. -/
theorem test_witness_BuildsWithoutAMachineAreRefused :
    ({ small with nCell := 1 } : Config).nCell < 2
      ∧ small.patternOk [false, true, false, false] = false
      ∧ ({ small with pat1 := [true, false, false, false] } : Config).pat1.count true ≤ small.pat0.count true
      ∧ ({ small with chOrder := [.green, .red, .red] } : Config).chOrderOk = false
      ∧ (small.byteBus = true ∧ ({ small with resetCells := 9 } : Config).frameCells % 8 ≠ 0)
      ∧ (({ small with npix := 2 } : Config).ok = true ∧ ({ small with npix := 2 } : Config).npix ≠ 1) := by decide

/-- A step from INIT, one that ends a transfer by rejection, and one that leaves PACE. -/
theorem test_witness_PhaseTakesOnlyItsTransitions :
    after (fun t => t.core.regs.phase) (step (at0 .init Pins.quiet)) = some .init
      ∧ after (fun t => t.core.regs.phase) (step (sending 0 false { Pins.quiet with busReject := true })) = some .advance
      ∧ after (fun t => t.core.regs.phase) (step (sending 103 false { Pins.quiet with cellEn := true })) = some .transmit
      ∧ after (fun t => t.core.regs.phase) (step (sending 104 false Pins.quiet)) = some .advance
      ∧ after (fun t => t.core.regs.phase) (step (at0 .pace { Pins.quiet with now := 21000 })) = some .capture
      ∧ after (fun t => t.core.regs.phase) (step (at0 .pace { Pins.quiet with rst := true })) = some .init := by
  decide +kernel

/-- One step for each clause: hue, colour, timestamp, buffer, position and line, TXERR, FATAL. -/
theorem test_witness_EachRegisterHasItsOneWriter :
    after (fun t => t.core.regs.hue != 0) (step (at0 .advance Pins.quiet)) = some true
      ∧ after (fun t => t.core.regs.rgb != ⟨100, 0, 0⟩) (step { at0 .convert Pins.quiet with core.regs.hue := 86 }) = some true
      ∧ after (fun t => t.core.regs.tstart != 1000) (step (at0 .capture Pins.quiet)) = some true
      ∧ after (fun t => t.core.regs.framebuf != []) (step (at0 .encode Pins.quiet)) = some true
      ∧ after (fun t => (t.core.regs.txidx != 0, t.core.regs.line != false))
        (step (sending 0 false { Pins.quiet with cellEn := true })) = some (true, true)
      ∧ after (fun t => t.core.regs.txerr != false)
        (step (sending 0 false { Pins.quiet with busReject := true })) = some true
      ∧ after (fun t => t.core.regs.fatal != false)
        (step (at0 .init { Pins.quiet with busInitDone := true })) = some true := by decide +kernel

/-- A CONVERT; the first and the last cell driven; no cell without a pulse, on a rejection, or after the last one. -/
theorem test_witness_OutputsStrobeOnceAStep :
    after (fun t => (t.core.diag, t.core.sclk)) (step (at0 .convert Pins.quiet)) = some (some 0, [false])
      ∧ [(sending 0 false { Pins.quiet with cellEn := true }), sending 103 false { Pins.quiet with cellEn := true },
          sending 0 false Pins.quiet, sending 0 false { Pins.quiet with cellEn := true, busReject := true },
          sending 104 false { Pins.quiet with cellEn := true }].map
            (fun s => after (fun t => (t.core.diag, t.core.mosi, t.core.sclk)) (step s))
        = [some (none, [true], [false, true, false]), some (none, [false], [false, true, false]),
          some (none, [], [false]), some (none, [], [false]), some (none, [], [false])] := by decide +kernel

/-- The bus rejects or not, and in PACE nobody asks. -/
theorem test_witness_UnpolledInputsAreNotSeen :
    Env.quiet.pins.rst = false ∧ ({ Env.quiet with pins.busReject := true } : Env).pins.rst = false
      ∧ PolledAlike (at0 .pace Pins.quiet).core Env.quiet { Env.quiet with pins.busReject := true } := ⟨rfl, rfl, rfl⟩

/-- Waiting for a verdict, for a pulse, and for time. -/
theorem test_witness_WaitingChangesNothing :
    buildRefusal small = none ∧ Pins.quiet.rst = false ∧ Waiting (at0 .init Pins.quiet)
      ∧ Waiting (sending 5 false Pins.quiet) ∧ Waiting (at0 .pace { Pins.quiet with now := 1000 }) :=
  ⟨by decide, rfl, rfl, ⟨by decide, by decide, rfl⟩, show periodReached small 1000 1000 = false by decide⟩

theorem test_witness_TransferWithoutPulsesStalls :
    let s := sending 38 true { Pins.quiet with busReject := true }
    buildRefusal s.build = none ∧ s.core.regs.phase = .transmit ∧ s.env.granted = true ∧ s.core.regs.txidx < s.build.frameCells
      ∧ NoReset s 3 ∧ (∀ j, j < 3 → (pinsAt s j).cellEn = false) := by
  unfold NoReset
  decide +kernel

/-- Just enough pulses, one in each of 104 steps. -/
theorem test_witness_AcceptedTransferCompletesUnderBusLive :
    let s := sending 0 false { Pins.quiet with cellEn := true }
    MachineInv s ∧ s.core.regs.phase = .transmit ∧ s.env.pins.busReject = false ∧ NoReset s 105
      ∧ s.build.frameCells ≤ s.core.regs.txidx + pulsesIn s 104 :=
  ⟨test_machineInv_entry, rfl, rfl, by unfold NoReset; decide +kernel, by decide +kernel⟩

/-- A clock that stands one tick short of the period, and then jumps to its last value; and a read short of it. -/
theorem test_witness_PaceIsLeftUnderClockProgress :
    let s := { at0 .pace { Pins.quiet with now := 20999 } with
      env.script := [{ Pins.quiet with now := BitVec.ofNat 64 (2 ^ 64 - 1) }] }
    buildRefusal s.build = none ∧ s.core.regs.phase = .pace ∧ (∀ n, NoReset s n) ∧ ClockMonotone s ∧ ClockProgress s
      ∧ s.core.regs.tstart.toNat ≤ s.env.pins.now.toNat
      ∧ s.core.regs.tstart.toNat + s.build.framePeriodTicks < 2 ^ 64
      ∧ (∀ j, j < 1 → periodReached s.build (pinsAt s j).now s.core.regs.tstart = false) := by
  refine ⟨by decide, rfl, fun n j _ => ?_, by unfold ClockMonotone; decide, fun T => ⟨1, ?_⟩, by decide, by decide,
    by decide⟩
  · rcases j with _ | _ | j <;> rfl
  · exact Nat.le_sub_one_of_lt T.isLt

theorem test_witness_EveryStepKeepsTheMachineInvariant :
    let s := sending 0 false { Pins.quiet with cellEn := true }
    MachineInv s ∧ ∃ t, step s = .next t :=
  ⟨test_machineInv_entry, _, rfl⟩

theorem test_witness_EveryStepCompletesFromTheInvariant : MachineInv (sending 0 false { Pins.quiet with cellEn := true }) :=
  test_machineInv_entry

theorem test_witness_EveryStepKeepsTheHueOfItsFrame :
    let s := { at0 .convert Pins.quiet with build := Config.default }
    HueInv s ∧ (∃ t, step s = .next t) ∧ s.core.regs.phase = .convert ∧ s.build = Config.default :=
  ⟨by unfold HueInv; decide, ⟨_, rfl⟩, rfl, rfl⟩

/-- A step of 2 has the period 128, and 128 brings the hue back. -/
theorem test_witness_HueSequenceHasItsPeriod :
    0 < 128 ∧ ∀ k, hueOfFrame Config.default (k + 128) = hueOfFrame Config.default k := by
  refine ⟨by decide, fun k => BitVec.eq_of_toNat_eq ?_⟩
  simp [hueOfFrame, Config.default]
  omega

/-- In CONVERT with a frame behind it, in a build with the diagnostic output and in one without. -/
theorem test_witness_EveryStepKeepsTheTraceShape :
    (let s := { at0 .convert Pins.quiet with core.regs.hue := 2, core.trace := [.diag 0, .frameDropped 1000] };
      MachineInv s ∧ TraceInv [1000, 1000] s ∧ ∃ t, step s = .next t)
      ∧ (let s := { at0 .convert Pins.quiet with
          build.diagPresent := false, core.regs.hue := 2, core.trace := [.frameDropped 1000] };
        MachineInv s ∧ TraceInv [1000, 1000] s ∧ ∃ t, step s = .next t) := by
  refine ⟨⟨?_, ⟨[], [(1000, false)], [], by decide, .inl rfl, rfl, rfl⟩, _, rfl⟩,
    ?_, ⟨[], [(1000, false)], [], by decide, .inl rfl, rfl, rfl⟩, _, rfl⟩
  all_goals
    unfold MachineInv BuildInv HaltInv TransportInv BufferInv DataInv HueInv
    decide

/-- A frame of timestamp 1000 behind it, PACE leaves at 21000 and CAPTURE reads 21000. -/
theorem test_witness_EveryStepKeepsFramesAPeriodApart :
    let s := { at0 .pace { Pins.quiet with now := 21000 } with core.trace := [.frameDropped 1000] }
    PeriodInv s ∧ ∃ t u, step s = .next t ∧ s.env.pins.rst = false ∧ s.core.regs.phase = .pace ∧ t.core.regs.phase = .capture
      ∧ step t = .next u ∧ t.env.pins.rst = false ∧ ClockMonotone s ∧ s.core.regs.tstart.toNat ≤ s.env.pins.now.toNat := by
  refine ⟨?_, _, _, rfl, rfl, rfl, by decide, rfl, rfl, ?_, by decide⟩
  · exact ⟨by unfold ClockMonotone; decide, by decide, by decide, by decide⟩
  · unfold ClockMonotone
    decide

end Sys2Proof.Tests
end

section
/-! PROOFS. What each row can do to the core, and from it: what a row leaves unchanged, which phase writes which register,
and which builds stop (rules R9, R11, R20, R56, R131, R132). -/

namespace Sys2Proof.Machine

/-! ### Cells driven one after the other -/

/-- The registers after a group of cells (rule R145): the line keeps the last cell, TXIDX counts them all. -/
@[simp] theorem driveCells_regs (cells : List Bool) (c : CoreState) :
    (driveCells cells c).regs = { c.regs with
      line := cells.getLastD c.regs.line
      txidx := c.regs.txidx + cells.length
      phase := if cells = [] then c.regs.phase else .transmit } := by
  induction cells generalizing c with
  | nil => rfl
  | cons x xs ih =>
    rw [driveCells_cons, ih]
    simp [Nat.add_assoc, Nat.add_comm 1, List.getLast?_cons]

@[simp] theorem driveCells_diag (cells : List Bool) (c : CoreState) : (driveCells cells c).diag = c.diag := by
  induction cells generalizing c with
  | nil => rfl
  | cons x xs ih => rw [driveCells_cons, ih, driveCell_diag]

/-! ### The inversion of a row -/

/-- Everything a row of the table can do to the core of `s`, by the shared operation it goes through (rules R145, R146, R162
to R169, R191, R192; log 12). The last argument is the core after it. Under which answers of the environment a step takes
which of these is what `Did` says; this one also covers the rows that are no operation of the core. -/
inductive RowDid (i : Instr) (s : State) : CoreState → Prop
  /-- the sequencer moves at most: a wait, the start of the loop, PACE, HALT, FAULT.NONE -/
  | moved (p : Phase) : RowDid i s { s.core with regs.phase := p }
  /-- the fatal failure -/
  | failed (row : i = .init ∨ i = .faultInitFailure) : RowDid i s (raise .initFailure s.core)
  /-- the clock is captured -/
  | captured (row : i = .capture) : RowDid i s { s.core with regs.tstart := clockRead s.env, regs.phase := .convert }
  /-- CONVERT ends with the colour of an arm -/
  | converted (row : i = .convert ∨ i.format = .hsv ∨ i.format = .region) (x : RGB) :
    RowDid i s (finishConvert s.build x s.core)
  /-- the frame is laid into the buffer -/
  | encoded (row : i = .encode) : RowDid i s { s.core with
      regs.framebuf := s.core.regs.framebuf.write 0 (encodeFrame s.build [s.core.regs.rgb])
      regs.phase := .transmit }
  /-- the transfer is rejected -/
  | rejected (row : i = .transmit ∨ i.format = .txerr) : RowDid i s (raise .transportError s.core)
  /-- cells go out: one of TRANSMIT, or the group of a code -/
  | drove (row : i = .transmit ∨ i.format = .sym ∨ i.format = .busbyte) (cells : List Bool) :
    RowDid i s (driveCells cells s.core)
  /-- the transfer completes -/
  | completed (row : i = .transmit ∨ i = .txerrOk) (cells : List Bool) : RowDid i s
      (emit (.frameSent cells s.core.regs.tstart)
        { setTxerr false s.core with regs.line := false, regs.txidx := 0, regs.phase := .advance })
  /-- the hue moves on -/
  | advanced (row : i = .advance) :
    RowDid i s { s.core with regs.hue := s.core.regs.hue + s.build.hueStep, regs.phase := .pace }

/-- INIT waits, starts the loop, or fails (rule R162). -/
theorem execInit_did {s t : State} (h : execInit s = .next t) : RowDid .init s t.core := by
  obtain ⟨c, hc, rfl⟩ := run_eq_next.mp h
  split at hc <;> cases hc
  · exact .moved _
  · exact .moved _
  · exact .failed (.inl rfl)

/-- TRANSMIT is a rejection, a cell, a wait or the completion (rules R143 to R146). -/
theorem execTransmit_did {s t : State} (h : execTransmit s = .next t) : RowDid .transmit s t.core := by
  obtain ⟨c, hc, rfl⟩ := run_eq_next.mp h
  split at hc
  · cases hc
    exact .rejected (.inl rfl)
  · rcases transferStep_next hc with ⟨-, -, x, -, rfl⟩ | ⟨-, -, rfl⟩ | ⟨-, hd⟩
    · exact .drove (.inl rfl) [x]
    · exact .moved _
    · obtain ⟨cells, -, rfl⟩ := completeTransfer_next hd
      exact .completed (.inl rfl) cells

/-- A code of a cell group drives its cells (rules R74, R76). -/
theorem driveGroup_did {i : Instr} {cells : List Bool} {s t : State} (row : i.format = .sym ∨ i.format = .busbyte)
    (h : driveGroup cells s = .next t) : RowDid i s t.core := by
  obtain ⟨-, rfl⟩ := driveGroup_next h
  exact .drove (.inr row) cells

/-- The inversion of a row that answers a next state. -/
theorem exec_did {i : Instr} {s t : State} (h : exec i s = .next t) : RowDid i s t.core := by
  cases i with
  | init => exact execInit_did h
  | capture => cases h; exact .captured rfl
  | convert => cases h; exact .converted (.inl rfl) _
  | encode => cases h; exact .encoded rfl
  | transmit => exact execTransmit_did h
  | advance => cases h; exact .advanced rfl
  | pace | halt => cases h; exact .moved _
  | convertAchromatic => cases h; exact .converted (.inr (.inl rfl)) _
  | convertRegion0 | convertRegion1 | convertRegion2 | convertRegion3 | convertRegion4 | convertRegion5 =>
    cases h; exact .converted (.inr (.inr rfl)) _
  | sym0 | sym1 | gapcell => exact driveGroup_did (.inl rfl) h
  | bb00 | bb01 | bb10 | bb11 | bbgap => exact driveGroup_did (.inr rfl) h
  | faultNone => cases h; exact .moved _
  | faultInitFailure => cases h; exact .failed (.inr rfl)
  | faultReserved2 | faultReserved3 => cases h
  | txerrOk =>
    obtain ⟨c, hc, rfl⟩ := run_eq_next.mp h
    obtain ⟨cells, -, rfl⟩ := completeTransfer_next hc
    exact .completed (.inr rfl) cells
  | txerrTransportError => cases h; exact .rejected (.inr rfl)

/-! ### The rows each register belongs to (rule R20) -/

section Writers

variable {i : Instr} {s : State} {d : CoreState}

theorem RowDid.hue_eq (h : RowDid i s d) (hi : i ≠ .advance) : d.regs.hue = s.core.regs.hue := by
  cases h with
  | advanced row => exact absurd row hi
  | _ => simp

theorem RowDid.rgb_eq (h : RowDid i s d) (hi : ¬ (i = .convert ∨ i.format = .hsv ∨ i.format = .region)) :
    d.regs.rgb = s.core.regs.rgb ∧ d.diag = s.core.diag := by
  cases h with
  | converted row => exact absurd row hi
  | _ => simp [Regs.rgb]

theorem RowDid.tstart_eq (h : RowDid i s d) (hi : i ≠ .capture) : d.regs.tstart = s.core.regs.tstart := by
  cases h with
  | captured row => exact absurd row hi
  | _ => simp

theorem RowDid.framebuf_eq (h : RowDid i s d) (hi : i ≠ .encode) : d.regs.framebuf = s.core.regs.framebuf := by
  cases h with
  | encoded row => exact absurd row hi
  | _ => simp

/-- The line, the position in the frame and the two strobes of the bus. -/
theorem RowDid.transport_eq (h : RowDid i s d)
    (hi : ¬ (i = .transmit ∨ i = .txerrOk ∨ i.format = .sym ∨ i.format = .busbyte)) :
    d.regs.line = s.core.regs.line ∧ d.regs.txidx = s.core.regs.txidx ∧ d.sclk = s.core.sclk ∧ d.mosi = s.core.mosi := by
  cases h with
  | drove row => exact absurd (row.imp_right .inr) hi
  | completed row => exact absurd (row.imp_right .inl) hi
  | _ => simp

theorem RowDid.txerr_eq (h : RowDid i s d) (hi : ¬ (i = .transmit ∨ i.format = .txerr)) :
    d.regs.txerr = s.core.regs.txerr := by
  cases h with
  | rejected row => exact absurd row hi
  | completed row => exact absurd (row.imp_right (congrArg Instr.format)) hi
  | _ => simp

theorem RowDid.fault_eq (h : RowDid i s d) (hi : ¬ (i = .init ∨ i = .faultInitFailure)) :
    d.regs.fatal = s.core.regs.fatal ∧ d.regs.faultCode = s.core.regs.faultCode := by
  cases h with
  | failed row => exact absurd row hi
  | _ => simp

end Writers

/-! ### The operation of a step -/

/-- Of the rows that write a register, one is an operation of the core: its writer (rules R12, R20, R84). -/
theorem operation_of_writer (p : Phase) :
    (p.operation = .advance → p = .advance)
      ∧ (p.operation = .convert ∨ p.operation.format = .hsv ∨ p.operation.format = .region → p = .convert)
      ∧ (p.operation = .capture → p = .capture)
      ∧ (p.operation = .encode → p = .encode)
      ∧ (p.operation = .transmit ∨ p.operation = .txerrOk ∨ p.operation.format = .sym ∨ p.operation.format = .busbyte →
          p = .transmit)
      ∧ (p.operation = .transmit ∨ p.operation.format = .txerr → p = .transmit)
      ∧ (p.operation = .init ∨ p.operation = .faultInitFailure → p = .init) := by
  cases p <;> decide

/-- The core's part of an outcome is a next state only where the closed system's is. -/
theorem coreOutcome_eq_next {o : Host.Outcome State Fault Refusal} {d : CoreState} :
    coreOutcome o = .next d ↔ ∃ t, o = .next t ∧ t.core = d := by
  cases o <;> simp

/-- A step without reset does to the core, its strobes low, what the row that PHASE names can do (rule R161). -/
theorem step_rowDid {s t : State} (h : step s = .next t) (hr : s.env.pins.rst = false) :
    RowDid s.core.regs.phase.operation { s with core := strobesLow s.core } t.core := by
  obtain ⟨d, hd, rfl⟩ := step_next h
  obtain ⟨-, ⟨hr', -⟩ | ⟨-, hu⟩⟩ := coreStep_next hd
  · simp [hr] at hr'
  · obtain ⟨u, he, rfl⟩ := coreOutcome_eq_next.mp hu
    exact exec_did (t := u) he

/-- No step changes the build (rule R11). -/
theorem step_build {s t : State} (h : step s = .next t) : t.build = s.build := by
  obtain ⟨d, -, rfl⟩ := step_next h
  rfl

/-! ### Builds that stop -/

/-- `CH_ORDER` names each colour byte once, as a proposition (rules R9, R53). -/
theorem chOrderOk_iff {c : Config} : c.chOrderOk = true ↔ c.chOrder.length = 3 ∧ c.chOrder.Nodup := by
  simp [Config.chOrderOk]

/-- A parameter set that is not legal (rules R56, R131; U2, U17). -/
theorem buildRefusal_of_not_ok {c : Config} (h : ¬ c.ok = true) : buildRefusal c = some .parameterSet := by
  rw [buildRefusal, if_neg h]

/-- A legal parameter set for which there is no scheduler (rule R132; U15). -/
theorem buildRefusal_of_npix {c : Config} (h : c.ok = true) (hn : c.npix ≠ 1) :
    buildRefusal c = some .schedulerNeedsOnePixel := by
  rw [buildRefusal, if_pos h, if_neg hn]

/-- A build that has no machine stops every step, reset or not (rules R56, R131, R132; log 19). -/
theorem step_refused {s : State} {r : Refusal} (h : buildRefusal s.build = some r) : step s = .refused r := by
  simp [step, coreStep, h]

end Sys2Proof.Machine

/-! ### The obligations -/

section
open Sys2Proof Sys2Proof.Machine

/-- Settles O37: each clause is the frame lemma of its register, read off the inversion of a row. -/
theorem rowsChangeOnlyTheirRegisters : Obligations.RowsChangeOnlyTheirRegisters := by
  intro i s t h
  have did := exec_did h
  refine ⟨did.hue_eq, fun h1 h2 h3 => did.rgb_eq ?_, did.tstart_eq, fun hi a => ?_, fun h1 h2 h3 h4 => did.transport_eq ?_,
    fun h1 h2 => did.txerr_eq ?_, fun h1 h2 => did.fault_eq ?_, exec_next_frame h⟩
  · simp [h1, h2, h3]
  · rw [did.framebuf_eq hi]
  · simp [h1, h2, h3, h4]
  · simp [h1, h2]
  · simp [h1, h2]

/-- Settles O45: a step runs the row of PHASE, and of the rows of format PHASE each register has one writer. -/
theorem eachRegisterHasItsOneWriter : Obligations.EachRegisterHasItsOneWriter := by
  intro s t h
  refine ⟨step_build h, fun hr => ?_⟩
  have did := step_rowDid h hr
  obtain ⟨hue, rgb, tstart, framebuf, transport, txerr, fault⟩ := operation_of_writer s.core.regs.phase
  refine ⟨fun hne => hue (not_imp_comm.mp did.hue_eq hne), fun hne => rgb (not_imp_comm.mp did.rgb_eq ?_),
    fun hne => tstart (not_imp_comm.mp did.tstart_eq hne), fun hne => framebuf (not_imp_comm.mp did.framebuf_eq hne),
    fun hne => transport (not_imp_comm.mp did.transport_eq ?_), fun hne => txerr (not_imp_comm.mp did.txerr_eq hne),
    fun hne => transport (not_imp_comm.mp did.transport_eq ?_), fun hne => fault (not_imp_comm.mp did.fault_eq ?_)⟩
  · exact fun ⟨hrgb, _⟩ => hne hrgb
  · exact fun ⟨_, htxidx, _⟩ => hne htxidx
  · exact fun ⟨hline, _⟩ => hne hline
  · exact fun ⟨hfatal, hcode⟩ => hne.elim (· hfatal) (· hcode)

/-- Settles O43: a legal build meets every constraint that a disjunct breaks, and what stops a legal build is NPIX. -/
theorem buildsWithoutAMachineAreRefused : Obligations.BuildsWithoutAMachineAreRefused := by
  intro s
  refine ⟨fun hbroken => step_refused (buildRefusal_of_not_ok fun hok => ?_),
    fun hok hn => step_refused (buildRefusal_of_npix hok hn)⟩
  obtain ⟨hcells, hpat0, hpat1, hhigh, horder, hbus⟩ := config_ok_iff.mp hok
  rcases hbroken with h | h | h | h | h | ⟨h, hrest⟩
  · omega
  · simp [hpat0] at h
  · simp [hpat1] at h
  · exact absurd hhigh (Nat.not_lt.mpr h)
  · simp [chOrderOk_iff.mpr horder] at h
  · exact hrest (hbus h)

end
end

section
/-! PROOFS. A step from outside: which operation it runs, where it completes, which phase it leads to, and what it shows on
the outputs (rules R26, R30, R31, R145, R161, R193). -/

namespace Sys2Proof.Machine

/-! ### The operation of a step, and where it completes -/

/-- The fetched code decodes to the operation that PHASE names (rules R26, R84). -/
theorem decode_fetchCode (c : CoreState) : decode .phase (fetchCode c) = .ok c.regs.phase.operation := by
  unfold fetchCode
  cases c.regs.phase <;> rfl

/-- A step without reset runs the operation of PHASE on the core, its strobes low (rule R161; log 11). -/
theorem step_exec {s t : State} (h : step s = .next t) (hr : s.env.pins.rst = false) :
    ∃ u, exec s.core.regs.phase.operation { s with core := strobesLow s.core } = .next u ∧ u.core = t.core := by
  obtain ⟨d, hd, rfl⟩ := step_next h
  rw [coreStep_eq _ (coreStep_next hd).1 hr] at hd
  exact coreOutcome_eq_next.mp hd

/-- Cells left and no pulse: the transfer waits (rules R43, R148). -/
theorem transferStep_of_noPulse (build : Config) {e : Env} {c : CoreState} (hidx : c.regs.txidx < build.frameCells)
    (hpulse : e.pins.cellEn = false) : transferStep build e c = .next { c with regs.phase := .transmit } := by
  simp [transferStep, hidx, cellPulse, hpulse]

/-- A frame that can be read whole can be read cell by cell (rule R52). -/
theorem readCell_of_read {m : Memory} {n k : Nat} {cells : List Bool} (h : m.read 0 n = some cells) (hk : k < n) :
    ∃ x, m.readCell k = some x := by
  obtain ⟨hlen, hcell⟩ := read_eq_some.mp h
  have hx := hcell k hk
  rw [Nat.zero_add, List.getElem?_eq_getElem (by omega)] at hx
  exact ⟨_, hx⟩

/-- On a complete frame, with TXIDX not past it, a step of the transfer stops at nothing (rules R145, R146). -/
theorem transferStep_completes {build : Config} (e : Env) {c : CoreState} {cells : List Bool}
    (hidx : c.regs.txidx ≤ build.frameCells) (hbuf : c.regs.framebuf.read 0 build.frameCells = some cells) :
    ∃ d, transferStep build e c = .next d := by
  rcases Nat.lt_or_eq_of_le hidx with hlt | heq
  · obtain ⟨x, hx⟩ := readCell_of_read hbuf hlt
    cases hp : cellPulse e <;> simp [transferStep, hlt, hp, hx]
  · simp [transferStep, completeTransfer, heq, hbuf]

/-- Of the eight operations only TRANSMIT can stop, and not on a complete frame (rule R193). -/
theorem exec_operation_completes {s : State}
    (htx : s.core.regs.phase = .transmit → s.core.regs.txidx ≤ s.build.frameCells
      ∧ ∃ cells, s.core.regs.framebuf.read 0 s.build.frameCells = some cells) :
    ∃ u, exec s.core.regs.phase.operation s = .next u := by
  cases hp : s.core.regs.phase with
  | init => cases hv : busInitVerdict s.env <;> simp [Phase.operation, exec, execInit, hv]
  | transmit =>
    obtain ⟨hidx, cells, hbuf⟩ := htx hp
    obtain ⟨d, hd⟩ := transferStep_completes s.env hidx hbuf
    cases ht : turnedAway s.env s.core <;> simp [Phase.operation, exec, execTransmit_eq, ht, hd]
  | capture | convert | encode | advance | pace | halt => exact ⟨_, rfl⟩

/-- The same of a step without reset, in a build that has a machine. -/
theorem step_completes {s : State} (hb : buildRefusal s.build = none) (hr : s.env.pins.rst = false)
    (htx : s.core.regs.phase = .transmit → s.core.regs.txidx ≤ s.build.frameCells
      ∧ ∃ cells, s.core.regs.framebuf.read 0 s.build.frameCells = some cells) :
    ∃ t, step s = .next t := by
  obtain ⟨u, hu⟩ := exec_operation_completes (s := ⟨s.build, strobesLow s.core, s.env⟩) htx
  refine ⟨_, step_of_core (d := u.core) ?_⟩
  rw [coreStep_eq _ hb hr]
  exact congrArg coreOutcome hu

/-! ### The outputs of a step -/

/-- The diagnostic output after a step without reset: raised by CONVERT alone (rule R31). -/
theorem step_diag {s t : State} (h : step s = .next t) (hr : s.env.pins.rst = false) :
    t.core.diag = if s.core.regs.phase = .convert ∧ s.build.diagPresent = true then some s.core.regs.hue else none := by
  by_cases hp : s.core.regs.phase = .convert
  · obtain ⟨u, hu, hcore⟩ := step_exec h hr
    simp only [hp, Phase.operation, exec, execConvert, run_next, Host.Outcome.next.injEq] at hu
    subst hu
    simp [← hcore, hp]
  · obtain ⟨-, hwriter, -⟩ := operation_of_writer s.core.regs.phase
    simpa [hp] using ((step_rowDid h hr).rgb_eq (mt hwriter hp)).2

/-- TRANSMIT to a next state is the rejection on entry, or a step of the transfer (rules R143, R144, R166). -/
theorem execTransmit_next {s t : State} (h : execTransmit s = .next t) :
    ((s.core.regs.txidx = 0 ∧ s.env.granted = false ∧ s.env.pins.busReject = true)
        ∧ t.core = raise .transportError s.core)
      ∨ (¬ (s.core.regs.txidx = 0 ∧ s.env.granted = false ∧ s.env.pins.busReject = true)
        ∧ transferStep s.build s.env s.core = .next t.core) := by
  obtain ⟨c, hc, rfl⟩ := run_eq_next.mp h
  rw [← turnedAway_iff]
  split at hc
  case isTrue ha => exact .inl ⟨ha, by simpa using hc.symm⟩
  case isFalse ha => exact .inr ⟨ha, hc⟩

/-- The coming step, if it is no reset, drives a cell: TRANSMIT is not turned away, a cell is left, and there is a pulse
(rules R143, R145). `step_transmit` ties it to the step. -/
def DrivesCell (s : State) : Prop :=
  s.core.regs.phase = .transmit ∧ ¬ (s.core.regs.txidx = 0 ∧ s.env.granted = false ∧ s.env.pins.busReject = true)
    ∧ s.core.regs.txidx < s.build.frameCells ∧ s.env.pins.cellEn = true

/-- TRANSMIT drives the cell at TXIDX where it drives one; otherwise `sclk` and `mosi` rest (rules R30, R145). -/
theorem step_transmit {s t : State} (h : step s = .next t) (hr : s.env.pins.rst = false)
    (hp : s.core.regs.phase = .transmit) :
    (DrivesCell s ∧ ∃ x, s.core.regs.framebuf.readCell s.core.regs.txidx = some x
        ∧ t.core = driveCell x (strobesLow s.core))
      ∨ (¬ DrivesCell s ∧ t.core.mosi = [] ∧ t.core.sclk = [false]) := by
  obtain ⟨u, hu, hcore⟩ := step_exec h hr
  rw [hp] at hu
  rcases execTransmit_next hu with ⟨hentry, hu⟩ | ⟨hentry, hu⟩ <;> rw [hcore] at hu
  · exact .inr ⟨fun ⟨_, hne, _⟩ => hne hentry, by simp [hu], by simp [hu]⟩
  · rcases transferStep_next hu with ⟨hidx, hpulse, x, hx, hd⟩ | ⟨-, hpulse, hd⟩ | ⟨hidx, hd⟩
    · exact .inl ⟨⟨hp, hentry, hidx, hpulse⟩, x, hx, hd⟩
    · exact .inr ⟨fun ⟨_, _, _, hdrive⟩ => Bool.false_ne_true (hpulse.symm.trans hdrive), by simp [hd], by simp [hd]⟩
    · obtain ⟨cells, -, hd⟩ := completeTransfer_next hd
      exact .inr ⟨fun ⟨_, _, hlt, _⟩ => hlt.ne hidx, by simp [hd], by simp [hd]⟩

/-- The cell a step drives is the one at TXIDX, on strobes that were low (rule R145; log 11). -/
theorem step_drives {s t : State} (h : step s = .next t) (hr : s.env.pins.rst = false) (hdrive : DrivesCell s) :
    ∃ x, s.core.regs.framebuf.readCell s.core.regs.txidx = some x ∧ t.core = driveCell x (strobesLow s.core) := by
  rcases step_transmit h hr hdrive.1 with ⟨-, hx⟩ | ⟨hne, -⟩
  · exact hx
  · exact absurd hdrive hne

/-- A step that drives no cell leaves `sclk` and `mosi` at rest (rule R30). -/
theorem step_rests {s t : State} (h : step s = .next t) (hr : s.env.pins.rst = false) (hdrive : ¬ DrivesCell s) :
    t.core.mosi = [] ∧ t.core.sclk = [false] := by
  by_cases hp : s.core.regs.phase = .transmit
  · rcases step_transmit h hr hp with ⟨hd, -⟩ | ⟨-, hrest⟩
    · exact absurd hd hdrive
    · exact hrest
  · obtain ⟨-, -, -, -, hwriter, -⟩ := operation_of_writer s.core.regs.phase
    obtain ⟨-, -, hsclk, hmosi⟩ := (step_rowDid h hr).transport_eq (mt hwriter hp)
    exact ⟨hmosi, hsclk⟩

end Sys2Proof.Machine

/-! ### The obligations -/

section
open Sys2Proof Sys2Proof.Machine

/-- Settles O24: an accepted TRANSMIT is a step of the transfer, and that waits. -/
theorem transmitWaitsWithoutAPulse : Obligations.TransmitWaitsWithoutAPulse := by
  intro s haccepted hidx hpulse
  calc exec .transmit s = s.run (transferStep s.build s.env s.core) := execTransmit_accepted haccepted
    _ = _ := by rw [transferStep_of_noPulse s.build hidx hpulse, run_next]

/-- Settles O38: the decoded operation is that of PHASE, and the step of the closed system follows the core's. -/
theorem stepRunsTheDecodedOperation : Obligations.StepRunsTheDecodedOperation := by
  intro s i hb hr hi before
  obtain rfl : s.core.regs.phase.operation = i := by simpa [decode_fetchCode] using hi
  have hcore : coreStep s.build s.env s.core = coreOutcome (exec s.core.regs.phase.operation before) :=
    coreStep_eq s.core hb hr
  refine ⟨by cases s.core.regs.phase <;> rfl, fun u hu => ?_, fun r hf => ?_, fun r hf => ?_⟩
  · rw [hu, coreOutcome_next] at hcore
    refine ⟨hcore, ?_⟩
    rw [step_of_core hcore]
    simp [Env.turn, hr]
  · rw [step, hcore, hf, coreOutcome_fault, afterCore_fault]
  · rw [step, hcore, hf, coreOutcome_refused, afterCore_refused]

/-- Settles O40: every value stands in the reset state itself. -/
theorem resetLeavesTheSpecValues : Obligations.ResetLeavesTheSpecValues :=
  ⟨rfl, rfl, rfl, rfl, rfl, rfl, rfl, rfl, rfl, rfl, rfl, wf_nil, readCell_nil⟩

/-- Settles O44: the inversion of a step, read for PHASE; each case carries the condition of its choice. -/
theorem phaseTakesOnlyItsTransitions : Obligations.PhaseTakesOnlyItsTransitions := by
  refine ⟨fun s t h => ?_, rfl⟩
  cases hr : s.env.pins.rst with
  | true =>
    obtain ⟨-, hcore, -⟩ := step_reset h hr
    simp [hcore]
  | false =>
    obtain ⟨-, did, -⟩ := step_did h hr
    rw [if_neg (by simp)]
    cases did with
    | initWaits phase verdict regs => simp [regs, phase, phaseSuccessors, verdict]
    | initStarts phase done verdict regs | initFails phase done verdict regs =>
      simp [regs, phase, phaseSuccessors, done, verdict]
    | captured phase regs | converted phase _ _ regs | encoded phase regs | advanced phase regs | halted phase regs =>
      simp [regs, phase, phaseSuccessors]
    | rejected phase idx entry reject regs => simp [regs, phase, phaseSuccessors, idx, entry, reject]
    | drove phase entry idx _ _ _ regs | stalled phase entry idx _ regs =>
      have hleft := idx.ne
      simp_all [phaseSuccessors]
    | completed phase idx _ _ regs => simp [regs, phase, phaseSuccessors, idx]
    | paceOver phase period regs | paceWaits phase period regs => simp [regs, phase, phaseSuccessors, period]

/-- Settles O46: a step that drives a cell is `driveCell` on low strobes; every other step leaves them low. -/
theorem outputsStrobeOnceAStep : Obligations.OutputsStrobeOnceAStep := by
  intro s t h
  cases hr : s.env.pins.rst with
  | true =>
    obtain ⟨-, hcore, -⟩ := step_reset h hr
    simp [hcore]
  | false =>
    refine ⟨by simpa using step_diag h hr, ?_⟩
    split
    case isTrue hdrive =>
      obtain ⟨x, hx, hcore⟩ := step_drives h hr hdrive.2
      exact ⟨x, by simp [hcore, hx]⟩
    case isFalse hdrive => exact step_rests h hr (fun hd => hdrive ⟨rfl, hd⟩)

end
end

section
/-! PROOFS. The invariants of the machine and the shape of the trace: they hold after a reset, and every step keeps them, one
lemma for each part (rules R27, R29, R30, R45, R50, R61, R170, R174). -/

namespace Sys2Proof.Machine

/-! ### The count of frames -/

@[simp] theorem framesDone_nil : framesDone [] = 0 := rfl

@[simp] theorem framesDone_append (a b : List Event) : framesDone (a ++ b) = framesDone a + framesDone b := by
  simp [framesDone, frameStamps_append]

@[simp] theorem framesDone_diag (hue : U8) : framesDone [.diag hue] = 0 := rfl
@[simp] theorem framesDone_frameSent (cells : List Bool) (ts : Stamp) : framesDone [.frameSent cells ts] = 1 := rfl
@[simp] theorem framesDone_frameDropped (ts : Stamp) : framesDone [.frameDropped ts] = 1 := rfl
@[simp] theorem framesDone_fatal (code : FaultCode) : framesDone [.fatal code] = 0 := rfl
@[simp] theorem framesDone_frameAborted (cells : List Bool) : framesDone [.frameAborted cells] = 0 := rfl

@[simp] theorem framesDone_resetTrace (build : Config) (c : CoreState) : framesDone (resetTrace build c) = 0 := by
  simp [framesDone]

@[simp] theorem framesDone_diagEvent (build : Config) (k : Nat) : framesDone (diagEvent build k) = 0 := by
  simp [framesDone]

@[simp] theorem framesDone_framesTrace (build : Config) (k : Nat) (fs : List (Stamp × Bool)) :
    framesDone (framesTrace build k fs) = fs.length := by
  simp [framesDone]

/-- In a trace of the shape of `TraceInv` the frames done are those of its list (rule R174). -/
theorem framesDone_of_split {build : Config} {trace before rest : List Event} {frames : List (Stamp × Bool)}
    (hsplit : trace = before ++ framesTrace build 0 frames ++ rest)
    (hbefore : before = [] ∨ ∃ cells, before = [.frameAborted cells]) (hrest : framesDone rest = 0) :
    framesDone trace = frames.length := by
  have hstart : framesDone before = 0 := by rcases hbefore with rfl | ⟨cells, rfl⟩ <;> rfl
  simp [hsplit, hstart, hrest]

/-! ### The parts of the invariant, read phase by phase -/

/-- Outside HALT nothing has failed (rules R27, R29). -/
theorem haltInv_running {s : State} (h : s.core.regs.phase ≠ .halt) :
    HaltInv s ↔ s.core.regs.fatal = false ∧ s.core.regs.faultCode ≠ .initFailure := by
  unfold HaltInv
  cases s.core.regs.fatal <;> simp [h]

/-- Outside TRANSMIT the transport rests (rules R25, R30). -/
theorem transportInv_idle {s : State} (h : s.core.regs.phase ≠ .transmit) :
    TransportInv s ↔ s.core.regs.txidx = 0 ∧ s.env.granted = false ∧ s.core.regs.line = false := by
  constructor
  · rintro ⟨-, hidle, -, hline⟩
    obtain ⟨hidx, hgranted⟩ := hidle h
    exact ⟨hidx, hgranted, hline hidx⟩
  · rintro ⟨hidx, hgranted, hline⟩
    simp [TransportInv, hidx, hgranted, hline]

/-- Outside ADVANCE the loop is in the frame after those done (rule R170). -/
theorem hueInv_of_ne_advance {s : State} (h : s.core.regs.phase ≠ .advance) :
    HueInv s ↔ s.core.regs.hue = hueOfFrame s.build (framesDone s.core.trace)
      ∧ (s.core.regs.phase = .init ∨ s.core.regs.phase = .halt → framesDone s.core.trace = 0) := by
  simp [HueInv, frameIndex, h]

/-- In ADVANCE the loop is still in the frame recorded last (rule R170). -/
theorem hueInv_of_advance {s : State} (h : s.core.regs.phase = .advance) :
    HueInv s ↔ s.core.regs.hue = hueOfFrame s.build (framesDone s.core.trace - 1) ∧ 0 < framesDone s.core.trace := by
  simp [HueInv, frameIndex, h]

/-- A write inside a frame keeps the buffer inside it (rules R50, R51). -/
theorem mem_write_lt {m : Memory} {cells : List Bool} {n : Nat} (hm : ∀ e ∈ m, e.1 < n) (hlen : cells.length ≤ n) :
    ∀ e ∈ m.write 0 cells, e.1 < n := by
  intro e he
  simp only [Memory.write, List.mem_append] at he
  rcases he with (he | he) | he
  · exact hm e (List.mem_filter.mp he).1
  · have := (mem_entries he).2.1
    omega
  · exact hm e (List.mem_filter.mp he).1

/-! ### Right after a reset -/

theorem machineInv_afterReset {s : State} {epoch : Nat} {trace : List Event} (hb : buildRefusal s.build = none)
    (hcore : s.core = CoreState.afterReset s.build epoch trace) (hframes : framesDone trace = 0)
    (hgranted : s.env.granted = false) : MachineInv s := by
  refine ⟨hb, ?_, ?_, ?_, ?_, ?_⟩
  · simp [HaltInv, hcore]
  · simp [TransportInv, hcore, hgranted]
  · simpa [BufferInv, hcore] using wf_nil
  · simp [DataInv, hcore]
  · simp [HueInv, frameIndex, hcore, hframes]

theorem traceInv_afterReset {s : State} {epoch : Nat} {trace : List Event}
    (hcore : s.core = CoreState.afterReset s.build epoch trace)
    (htrace : trace = [] ∨ ∃ cells, trace = [.frameAborted cells]) : TraceInv [] s :=
  ⟨trace, [], [], by simp [hcore, framesTrace], htrace, by simp [hcore]⟩

/-! ### Every operation keeps each part -/

section Steps

variable {s t : State}

theorem haltInv_step (did : Did s.build s.env s.core t.core) (h : HaltInv s) : HaltInv t := by
  cases did with
  | initWaits _ _ regs | stalled _ _ _ _ regs | paceWaits _ _ regs | halted _ regs => simpa [HaltInv, regs] using h
  | initFails _ _ _ regs => simp [HaltInv, regs]
  | initStarts phase _ _ regs | captured phase regs | converted phase _ _ regs | encoded phase regs
  | rejected phase _ _ _ regs | drove phase _ _ _ _ _ regs | completed phase _ _ _ regs | advanced phase regs
  | paceOver phase _ regs =>
    rw [haltInv_running (by simp [phase])] at h
    rw [haltInv_running (by simp [regs, phase])]
    simpa [regs] using h

theorem transportInv_step (did : Did s.build s.env s.core t.core) (hbuild : t.build = s.build)
    (henv : t.env = s.env.turn s.core.regs.phase t.core.regs.phase) (h : TransportInv s) : TransportInv t := by
  cases did with
  | initWaits phase _ regs | initStarts phase _ _ regs | initFails phase _ _ regs | captured phase regs
  | converted phase _ _ regs | advanced phase regs | paceOver phase _ regs | paceWaits phase _ regs | halted phase regs =>
    rw [transportInv_idle (by simp [phase])] at h
    rw [transportInv_idle (by simp [regs, phase])]
    simp [henv, regs, phase, h]
  | encoded phase regs =>
    rw [transportInv_idle (by simp [phase])] at h
    simp [TransportInv, regs, h]
  | rejected phase idx _ _ regs =>
    obtain ⟨-, -, -, hline⟩ := h
    rw [transportInv_idle (by simp [regs])]
    simp [henv, regs, idx, hline]
  | drove phase _ idx _ x cell regs =>
    simpa [TransportInv, henv, hbuild, regs, phase, cell] using Nat.succ_le_of_lt idx
  | stalled phase _ _ _ regs =>
    obtain ⟨hle, -, hdriven, hline⟩ := h
    have hcell := fun hpos => (hdriven hpos).2
    simpa [TransportInv, henv, hbuild, regs, phase] using ⟨hle, hcell, hline⟩
  | completed phase _ _ _ regs =>
    rw [transportInv_idle (by simp [regs])]
    simp [henv, regs]

theorem bufferInv_step (hb : buildRefusal s.build = none) (did : Did s.build s.env s.core t.core)
    (hbuild : t.build = s.build) (h : BufferInv s) : BufferInv t := by
  cases did with
  | encoded _ regs =>
    obtain ⟨hwf, hlt⟩ := h
    unfold BufferInv
    rw [hbuild, regs]
    exact ⟨wf_write hwf 0 _, mem_write_lt hlt (length_encodeFrame_single hb _).le⟩
  | _ => simpa only [BufferInv, hbuild, *] using h

theorem dataInv_step (hb : buildRefusal s.build = none) (did : Did s.build s.env s.core t.core)
    (hbuild : t.build = s.build) (h : DataInv s) : DataInv t := by
  obtain ⟨hcolour, hframe⟩ := h
  cases did with
  | converted _ x colour regs => simp [DataInv, regs, hbuild, colour]
  | encoded phase regs =>
    have hread := read_write_all s.core.regs.framebuf (encodeFrame s.build [s.core.regs.rgb])
    rw [length_encodeFrame_single hb] at hread
    have hrgb : t.core.regs.rgb = s.core.regs.rgb := by simp [regs, Regs.rgb]
    refine ⟨fun _ => ?_, fun _ => ?_⟩
    · rw [hrgb, hbuild, regs]
      exact hcolour (.inl phase)
    · rw [hrgb, hbuild, regs]
      exact hread
  | drove phase _ _ _ _ _ regs | stalled phase _ _ _ regs =>
    simpa [DataInv, regs, hbuild, Regs.rgb, phase] using ⟨hcolour (.inr phase), hframe phase⟩
  | initWaits phase _ regs | initStarts phase _ _ regs | initFails phase _ _ regs | captured phase regs
  | rejected phase _ _ _ regs | completed phase _ _ _ regs | advanced phase regs | paceOver phase _ regs
  | paceWaits phase _ regs | halted phase regs =>
    simp [DataInv, regs, phase]

theorem hueInv_step (did : Did s.build s.env s.core t.core) (hbuild : t.build = s.build) (h : HueInv s) : HueInv t := by
  cases did with
  | rejected phase _ _ _ regs trace | completed phase _ _ _ regs trace =>
    rw [hueInv_of_ne_advance (by simp [phase])] at h
    rw [hueInv_of_advance (by rw [regs])]
    simp [regs, trace, hbuild, h.1]
  | advanced phase regs trace =>
    rw [hueInv_of_advance phase] at h
    obtain ⟨hhue, hdone⟩ := h
    have hnext : s.core.regs.hue + s.build.hueStep = hueOfFrame s.build (framesDone s.core.trace) := by
      rw [hhue, ← hueOfFrame_succ, Nat.sub_add_cancel hdone]
    rw [hueInv_of_ne_advance (by simp [regs])]
    simpa [regs, trace, hbuild] using hnext
  | converted phase x colour regs trace =>
    have hcount : framesDone t.core.trace = framesDone s.core.trace := by
      rw [trace]
      split <;> simp
    rw [hueInv_of_ne_advance (by simp [phase])] at h
    rw [hueInv_of_ne_advance (by simp [regs])]
    simpa [regs, hcount, hbuild] using h.1
  | initWaits phase _ regs trace | initStarts phase _ _ regs trace | initFails phase _ _ regs trace
  | captured phase regs trace | encoded phase regs trace | drove phase _ _ _ _ _ regs trace
  | stalled phase _ _ _ regs trace | paceOver phase _ regs trace | paceWaits phase _ regs trace
  | halted phase regs trace =>
    rw [hueInv_of_ne_advance (by simp [phase])] at h
    rw [hueInv_of_ne_advance (by simp [regs, phase])]
    simp_all

end Steps

/-! ### Every step keeps the invariant -/

theorem machineInv_step {s t : State} (hr : s.env.pins.rst = false) (h : step s = .next t) (hinv : MachineInv s) :
    MachineInv t := by
  obtain ⟨hb, did, hbuild, henv⟩ := step_did h hr
  obtain ⟨-, hhalt, htransport, hbuffer, hdata, hhue⟩ := hinv
  exact ⟨by rwa [BuildInv, hbuild], haltInv_step did hhalt, transportInv_step did hbuild henv htransport,
    bufferInv_step hb did hbuild hbuffer, dataInv_step hb did hbuild hdata, hueInv_step did hbuild hhue⟩

/-- A reset leads into the invariant from anywhere (rule R220). -/
theorem machineInv_step_reset {s t : State} (hr : s.env.pins.rst = true) (h : step s = .next t) : MachineInv t := by
  obtain ⟨hb, hcore, hbuild, henv⟩ := step_reset h hr
  exact machineInv_afterReset (by rwa [hbuild]) (by rw [hcore, hbuild]; rfl) (framesDone_resetTrace s.build s.core)
    (by simp [henv])

/-! ### The shape of the trace -/

section TraceShape

variable {captured : List Stamp} {s t : State}

/-- The end of a frame, sent or dropped, adds it to the frames of the trace (rule R174). -/
theorem traceInv_frameEnds {ev : Event} {sent : Bool} (hphase : s.core.regs.phase = .transmit)
    (hphase' : t.core.regs.phase = .advance) (hbuild : t.build = s.build) (htrace : t.core.trace = s.core.trace ++ [ev])
    (hev : ev = frameEvent s.build (framesDone s.core.trace) sent s.core.regs.tstart) (h : TraceInv captured s) :
    TraceInv captured t := by
  obtain ⟨before, frames, rest, hsplit, hbefore, hshape⟩ := h
  simp only [hphase] at hshape
  obtain ⟨hcaptured, rfl⟩ := hshape
  have hcount := framesDone_of_split hsplit hbefore (framesDone_diagEvent s.build _)
  refine ⟨before, frames ++ [(s.core.regs.tstart, sent)], [], ?_, hbefore, ?_⟩
  · rw [htrace, hev, hcount, hsplit, hbuild, framesTrace_snoc]
    simp
  · simp [hphase', hcaptured]

/-- Every operation keeps the shape of the trace: the hue of the frame gives its Diag, the complete buffer its cells. -/
theorem traceInv_step (hr : s.env.pins.rst = false) (did : Did s.build s.env s.core t.core)
    (hbuild : t.build = s.build) (hdata : DataInv s) (hhue : HueInv s) (h : TraceInv captured s) :
    TraceInv (capturedAfter captured s) t := by
  cases did with
  | rejected phase _ _ _ regs trace =>
    have hcap : capturedAfter captured s = captured := by simp [capturedAfter, hr, phase]
    rw [hcap]
    exact traceInv_frameEnds phase (by rw [regs]) hbuild trace (sent := false) rfl h
  | completed phase _ cells buffer regs trace =>
    have hcap : capturedAfter captured s = captured := by simp [capturedAfter, hr, phase]
    rw [hueInv_of_ne_advance (by simp [phase])] at hhue
    obtain ⟨hcolour, hframe⟩ := hdata
    have hcells : encodeFrame s.build [s.core.regs.rgb] = cells := Option.some.inj ((hframe phase).symm.trans buffer)
    rw [hcap]
    refine traceInv_frameEnds phase (by rw [regs]) hbuild trace (sent := true) ?_ h
    rw [← hcells, hcolour (.inr phase), hhue.1]
    rfl
  | converted phase x colour regs trace =>
    rw [hueInv_of_ne_advance (by simp [phase])] at hhue
    obtain ⟨before, frames, rest, hsplit, hbefore, hshape⟩ := h
    simp only [phase] at hshape
    obtain ⟨hcaptured, rfl⟩ := hshape
    have hcount := framesDone_of_split hsplit hbefore framesDone_nil
    refine ⟨before, frames, diagEvent s.build frames.length, ?_, hbefore, ?_⟩
    · rw [trace, hhue.1, hcount, hsplit, hbuild]
      unfold diagEvent
      split <;> simp
    · simp [regs, capturedAfter, hr, phase, hcaptured, hbuild]
  | initFails phase _ _ regs trace =>
    obtain ⟨before, frames, rest, hsplit, hbefore, hshape⟩ := h
    simp only [phase] at hshape
    obtain ⟨rfl, rfl, rfl⟩ := hshape
    exact ⟨before, [], [.fatal .initFailure], by simp [trace, hsplit, framesTrace], hbefore,
      by simp [regs, capturedAfter, hr, phase]⟩
  | initWaits phase _ regs trace | initStarts phase _ _ regs trace | captured phase regs trace | encoded phase regs trace
  | drove phase _ _ _ _ _ regs trace | stalled phase _ _ _ regs trace | advanced phase regs trace
  | paceOver phase _ regs trace | paceWaits phase _ regs trace | halted phase regs trace =>
    obtain ⟨before, frames, rest, hsplit, hbefore, hshape⟩ := h
    simp only [phase] at hshape
    refine ⟨before, frames, rest, by rw [trace, hsplit, hbuild], hbefore, ?_⟩
    simp [regs, capturedAfter, hr, phase, hshape, hbuild, clockRead]

end TraceShape

end Sys2Proof.Machine

/-! ### The obligations -/

section
open Sys2Proof Sys2Proof.Machine

/-- Settles O52: a reset leads into the invariant, and each operation keeps every part of it. -/
theorem everyStepKeepsTheMachineInvariant : Obligations.EveryStepKeepsTheMachineInvariant := by
  intro s t hinv h
  cases hr : s.env.pins.rst with
  | true => exact machineInv_step_reset hr h
  | false => exact machineInv_step hr h hinv

/-- Settles O53: the reset state is a core right after a reset, in a build that has a machine. -/
theorem resetMeetsTheInvariants : Obligations.ResetMeetsTheInvariants := by
  refine ⟨machineInv_afterReset (by decide) rfl rfl rfl, traceInv_afterReset rfl (.inl rfl), ?_, .nil, rfl⟩
  simp [ClockMonotone]

/-- Settles O57: a reset starts the trace anew; an operation adds at most one event, the one the shape asks for. -/
theorem everyStepKeepsTheTraceShape : Obligations.EveryStepKeepsTheTraceShape := by
  intro captured s t hinv htrace h
  cases hr : s.env.pins.rst with
  | true =>
    obtain ⟨-, hcore, hbuild, -⟩ := step_reset h hr
    rw [capturedAfter, if_pos hr]
    exact traceInv_afterReset (by rw [hcore, hbuild]; rfl) (resetTrace_cases s.build s.core)
  | false =>
    obtain ⟨-, did, hbuild, -⟩ := step_did h hr
    obtain ⟨-, -, -, -, hdata, hhue⟩ := hinv
    exact traceInv_step hr did hbuild hdata hhue htrace

end
end

section
/-! PROOFS. Runs that wait: an accepted transfer until its last pulse, and PACE until the period is over (rules R40, R43,
R145 to R148, R168, R235). -/

namespace Sys2Proof.Machine

/-! ### Runs, first step and last step -/

/-- A run of at least one step that answers a next state: its first step does, and the run goes on from there. -/
theorem runSteps_succ_next {n : Nat} {s t : State} (h : runSteps (n + 1) s = .next t) :
    ∃ u, step s = .next u ∧ runSteps n u = .next t := by
  cases hs : step s with
  | next u => exact ⟨u, rfl, by rwa [runSteps_succ n hs] at h⟩
  | fault r => simp [runSteps, Host.Core.run, Sys2Proof.core, hs] at h
  | refused r => simp [runSteps, Host.Core.run, Sys2Proof.core, hs] at h

/-- A run goes on with the step after its last one. -/
theorem runSteps_snoc {n : Nat} {s t u : State} (hrun : runSteps n s = .next t) (hstep : step t = .next u) :
    runSteps (n + 1) s = .next u := by
  induction n generalizing s with
  | zero =>
    cases hrun
    exact runSteps_succ 0 hstep
  | succ n ih =>
    obtain ⟨v, hv, hrun⟩ := runSteps_succ_next hrun
    rw [runSteps_succ (n + 1) hv, ih hrun]

/-- The coming step of a run without reset is no reset. -/
theorem NoReset.first {s : State} {n : Nat} (h : NoReset s (n + 1)) : s.env.pins.rst = false := by
  simpa using h 0 n.succ_pos

/-! ### An accepted transfer -/

section Accepted

variable {s : State} (hinv : MachineInv s) (hp : s.core.regs.phase = .transmit)
  (hgrant : s.env.granted = true ∨ s.env.pins.busReject = false)
include hinv hp hgrant

/-- One step of an accepted transfer: TXIDX moves on by the pulse while a cell is left, and the frame is recorded when none
is (rules R145, R146, R148). -/
theorem step_accepted (hr : s.env.pins.rst = false) :
    ∃ t, step s = .next t
      ∧ ((s.core.regs.txidx < s.build.frameCells ∧ t.core.trace = s.core.trace ∧ ∃ line, t.core.regs =
            { s.core.regs with line := line, txidx := s.core.regs.txidx + s.env.pins.cellEn.toNat })
        ∨ (s.core.regs.txidx = s.build.frameCells
          ∧ t.core.regs = { s.core.regs with line := false, txidx := 0, txerr := false, phase := .advance }
          ∧ t.core.trace =
            s.core.trace ++ [.frameSent (encodeFrame s.build [s.core.regs.rgb]) s.core.regs.tstart])) := by
  obtain ⟨hb, -, ⟨hidx, -⟩, -, ⟨-, hframe⟩, -⟩ := hinv
  obtain ⟨t, ht⟩ := step_completes hb hr (fun _ => ⟨hidx, _, hframe hp⟩)
  obtain ⟨-, did, -⟩ := step_did ht hr
  refine ⟨t, ht, ?_⟩
  cases did with
  | rejected _ _ entry reject => simp [entry, reject] at hgrant
  | drove _ _ idx pulse x _ regs trace => exact .inl ⟨idx, trace, x, by simp [regs, pulse]⟩
  | stalled _ _ idx pulse regs trace => exact .inl ⟨idx, trace, s.core.regs.line, by simp [regs, pulse]⟩
  | completed _ idx cells buffer regs trace =>
    rw [hframe hp, Option.some.injEq] at buffer
    exact .inr ⟨idx, regs, by rw [trace, buffer]⟩
  | initWaits phase | initStarts phase | initFails phase | captured phase | converted phase | encoded phase
  | advanced phase | paceOver phase | paceWaits phase | halted phase => simp [hp] at phase

/-- By induction on the steps in which the pulses come: a step that does not complete leads to an accepted transfer with one
step and its pulse less to go. -/
theorem accepted_completes (n : Nat) (hreset : NoReset s (n + 1))
    (hlive : s.build.frameCells ≤ s.core.regs.txidx + pulsesIn s n) :
    ∃ k t, k ≤ n + 1 ∧ runSteps k s = .next t
      ∧ t.core.regs = { s.core.regs with line := false, txidx := 0, txerr := false, phase := .advance }
      ∧ t.core.trace = s.core.trace ++ [.frameSent (encodeFrame s.build [s.core.regs.rgb]) s.core.regs.tstart] := by
  induction n generalizing s with
  | zero =>
    obtain ⟨t, ht, ⟨hlt, -⟩ | ⟨-, hregs, htrace⟩⟩ := step_accepted hinv hp hgrant hreset.first
    · simp only [pulsesIn] at hlive
      omega
    · exact ⟨1, t, Nat.le_refl _, runSteps_succ 0 ht, hregs, htrace⟩
  | succ n ih =>
    obtain ⟨u, hu, ⟨hlt, htrace, line, hregs⟩ | ⟨-, hregs, htrace⟩⟩ := step_accepted hinv hp hgrant hreset.first
    · obtain ⟨-, -, hbuild, henv⟩ := step_did hu hreset.first
      have hphase : u.core.regs.phase = .transmit := by rw [hregs, hp]
      have hgranted : u.env.granted = true := by simp [henv, hp, hphase]
      have hrgb : u.core.regs.rgb = s.core.regs.rgb := by simp [hregs, Regs.rgb]
      have hlive' : u.build.frameCells ≤ u.core.regs.txidx + pulsesIn u n := by
        rw [pulsesIn_succ henv n, ← Nat.add_assoc] at hlive
        rw [hbuild, hregs]
        exact hlive
      obtain ⟨k, t, hk, hrun, hregs', htrace'⟩ :=
        ih (machineInv_step hreset.first hu hinv) hphase (.inl hgranted) (noReset_turn henv hreset) hlive'
      refine ⟨k + 1, t, Nat.succ_le_succ hk, by rwa [runSteps_succ k hu], by rw [hregs', hregs], ?_⟩
      rw [htrace', htrace, hrgb, hbuild, hregs]
    · exact ⟨1, u, by omega, runSteps_succ 0 hu, hregs, htrace⟩

end Accepted

/-! ### PACE -/

/-- What PACE compares, under a clock that has not fallen since the capture (rules R40 (a), R168). -/
theorem periodReached_of_le (build : Config) {n tstart : Stamp} (h : tstart.toNat ≤ n.toNat) :
    periodReached build n tstart = true ↔ tstart.toNat + build.framePeriodTicks ≤ n.toNat := by
  rw [periodReached_iff, elapsed_of_le h]
  omega

/-- One step of PACE, by what its read of the clock shows (rule R168). -/
theorem step_pace {s : State} (hb : buildRefusal s.build = none) (hr : s.env.pins.rst = false)
    (hp : s.core.regs.phase = .pace) :
    ∃ t, step s = .next t ∧ t.core.trace = s.core.trace
      ∧ (periodReached s.build s.env.pins.now s.core.regs.tstart = false → t.core.regs = s.core.regs)
      ∧ (periodReached s.build s.env.pins.now s.core.regs.tstart = true →
          t.core.regs = { s.core.regs with phase := .capture }) := by
  obtain ⟨t, ht⟩ := step_completes hb hr (fun htx => by simp [hp] at htx)
  obtain ⟨-, did, -⟩ := step_did ht hr
  refine ⟨t, ht, ?_⟩
  cases did with
  | paceOver _ period regs trace | paceWaits _ period regs trace => simp [period, regs, trace]
  | initWaits phase | initStarts phase | initFails phase | captured phase | converted phase | encoded phase
  | rejected phase | drove phase | stalled phase | completed phase | advanced phase | halted phase =>
    simp [hp] at phase

/-- While no read shows the whole period elapsed, PACE stays as it is, and the pins move on with the steps. -/
theorem pace_spins (n : Nat) {s : State} (hb : buildRefusal s.build = none) (hp : s.core.regs.phase = .pace)
    (hreset : NoReset s n) (hwait : ∀ j, j < n → periodReached s.build (pinsAt s j).now s.core.regs.tstart = false) :
    ∃ t, runSteps n s = .next t ∧ t.core.regs = s.core.regs ∧ t.core.trace = s.core.trace ∧ t.build = s.build
      ∧ t.env.pins = pinsAt s n := by
  induction n generalizing s with
  | zero => exact ⟨s, rfl, rfl, rfl, rfl, (pinsAt_zero s).symm⟩
  | succ n ih =>
    obtain ⟨u, hu, htrace, hstay, -⟩ := step_pace hb hreset.first hp
    obtain ⟨-, -, hbuild, henv⟩ := step_did hu hreset.first
    have hregs : u.core.regs = s.core.regs := hstay (by simpa using hwait 0 n.succ_pos)
    have hwait' : ∀ j, j < n → periodReached u.build (pinsAt u j).now u.core.regs.tstart = false := by
      intro j hj
      rw [hbuild, hregs, pinsAt_turn henv]
      exact hwait (j + 1) (Nat.succ_lt_succ hj)
    obtain ⟨t, hrun, hregs', htrace', hbuild', hpins⟩ :=
      ih (s := u) (by rwa [hbuild]) (by rwa [hregs]) (noReset_turn henv hreset) hwait'
    exact ⟨t, by rwa [runSteps_succ n hu], hregs'.trans hregs, htrace'.trans htrace, hbuild'.trans hbuild,
      hpins.trans (pinsAt_turn henv n)⟩

/-- A clock that passes every bound has a first read that passes a given one (rule R40 (b)). -/
theorem exists_first_read {s : State} (hprogress : ClockProgress s) {bound : Nat} (hbound : bound < 2 ^ 64) :
    ∃ k, (∀ j, j < k → (pinsAt s j).now.toNat < bound) ∧ bound ≤ (pinsAt s k).now.toNat := by
  have hpass : ∃ k, bound ≤ (pinsAt s k).now.toNat := by
    obtain ⟨k, hk⟩ := hprogress (BitVec.ofNat 64 bound)
    exact ⟨k, by rwa [BitVec.toNat_ofNat, Nat.mod_eq_of_lt hbound] at hk⟩
  exact ⟨Nat.find hpass, fun j hj => Nat.lt_of_not_le (Nat.find_min hpass hj), Nat.find_spec hpass⟩

end Sys2Proof.Machine

/-! ### The obligations -/

section
open Sys2Proof Sys2Proof.Machine

/-- Settles O50: by induction on the steps in which the pulses come. -/
theorem acceptedTransferCompletesUnderBusLive : Obligations.AcceptedTransferCompletesUnderBusLive :=
  fun n _ hinv hp hgrant hreset hlive => accepted_completes hinv hp hgrant n hreset hlive

/-- Settles O51: PACE spins up to the first read past the period, and the step of that read leaves it. -/
theorem paceIsLeftUnderClockProgress : Obligations.PaceIsLeftUnderClockProgress := by
  refine ⟨fun n s hb hp hreset hwait => ?_, fun s hb hp hreset hmono hprogress hstart hbound => ?_⟩
  · obtain ⟨t, hrun, hregs, htrace, -⟩ := pace_spins n hb hp hreset hwait
    exact ⟨t, hrun, hregs, htrace⟩
  · obtain ⟨k, hbefore, hk⟩ := exists_first_read hprogress hbound
    have hreached (j : Nat) := periodReached_of_le s.build (hstart.trans (now_le_pinsAt hmono j))
    have hwait : ∀ j, j < k → periodReached s.build (pinsAt s j).now s.core.regs.tstart = false := fun j hj =>
      Bool.eq_false_iff.mpr (mt (hreached j).mp (Nat.not_le.mpr (hbefore j hj)))
    obtain ⟨u, hrun, hregs, htrace, hbuild, hpins⟩ := pace_spins k hb hp (hreset k) hwait
    obtain ⟨t, ht, htrace', -, hover⟩ := step_pace (s := u) (by rwa [hbuild])
      (by rw [hpins]; exact hreset (k + 1) k k.lt_succ_self) (by rwa [hregs])
    refine ⟨k, t, hbefore, hk, runSteps_snoc hrun ht, ?_, htrace'.trans htrace⟩
    rw [hbuild, hpins, hregs] at hover
    exact hover ((hreached k).mpr hk)

end
end

section
/-! PROOFS. The byte view of the frame buffer: a byte list has its cells in order, bit 7 first (rules R50, R53 (c)). -/

namespace Sys2Proof.Machine

/-- Cell `j` of a byte is its bit `7 - j` (rule R50). -/
theorem getElem?_byteBits (c : U8) {j : Nat} (hj : j < 8) : (byteBits c)[j]? = some (c.getLsbD (7 - j)) := by
  interval_cases j <;> rfl

/-- Eight bits, most significant first, are the bits of their byte. -/
theorem byteBits_byteOfBits {bits : List Bool} (h : bits.length = 8) : byteBits (byteOfBits bits) = bits := by
  have hall : ∀ b7 b6 b5 b4 b3 b2 b1 b0 : Bool,
      byteBits (byteOfBits [b7, b6, b5, b4, b3, b2, b1, b0]) = [b7, b6, b5, b4, b3, b2, b1, b0] := by decide
  match bits, h with
  | [b7, b6, b5, b4, b3, b2, b1, b0], _ => exact hall b7 b6 b5 b4 b3 b2 b1 b0

@[simp] theorem length_byteView (n : Nat) (cells : List Bool) : (byteView n cells).length = n := by
  induction n generalizing cells with
  | zero => rfl
  | succ n ih => rw [byteView, List.length_cons, ih]

/-- The bytes of the byte view, shifted out bit 7 first, are the cells. -/
theorem flatMap_byteBits_byteView {n : Nat} {cells : List Bool} (h : cells.length = 8 * n) :
    (byteView n cells).flatMap byteBits = cells := by
  induction n generalizing cells with
  | zero => exact (List.length_eq_zero_iff.mp h).symm
  | succ n ih =>
    have hhead : (cells.take 8).length = 8 := by rw [List.length_take]; omega
    have htail : (cells.drop 8).length = 8 * n := by rw [List.length_drop]; omega
    rw [byteView, List.flatMap_cons, byteBits_byteOfBits hhead, ih htail, List.take_append_drop]

/-- Bytes shifted out one after the other: cell `8k + j` is bit `7 - j` of byte `k`. -/
theorem getElem?_flatMap_byteBits (bytes : List U8) (k : Nat) {j : Nat} (hj : j < 8) :
    (bytes.flatMap byteBits)[8 * k + j]? = bytes[k]?.map (fun b => b.getLsbD (7 - j)) := by
  induction bytes generalizing k with
  | nil => rfl
  | cons c cs ih =>
    rw [List.flatMap_cons]
    cases k with
    | zero =>
      rw [Nat.mul_zero, Nat.zero_add, List.getElem?_append_left hj, getElem?_byteBits c hj]
      rfl
    | succ k =>
      rw [List.getElem?_append_right (by rw [length_byteBits]; omega), length_byteBits,
        show 8 * (k + 1) + j - 8 = 8 * k + j by omega, ih, List.getElem?_cons_succ]

end Sys2Proof.Machine

/-! ### The obligation -/

section
open Sys2Proof Sys2Proof.Machine

/-- Settles O17: the bytes shifted out are the cells, so cell `8k + j` stands where bit `7 - j` of byte `k` is shifted out. -/
theorem byteViewIsTheSameWaveform : Obligations.ByteViewIsTheSameWaveform := by
  intro n cells hlen
  have hout := flatMap_byteBits_byteView hlen
  refine ⟨hout, fun k j hk hj => ?_⟩
  have hbyte := List.getElem?_eq_getElem ((length_byteView n cells).symm ▸ hk)
  have hcell := getElem?_flatMap_byteBits (byteView n cells) k hj
  rw [hout, hbyte] at hcell
  exact ⟨_, hbyte, hcell⟩

end
end

section
/-! PROOFS. The codes: the decoder reads each row back from its code, what a hue selects, and what a placed PHASE code runs
(rules R70 to R88, R100; log 12, 15 to 18). -/

namespace Sys2Proof

/-! ### Codes read back -/

/-- The fields of an HSV word with saturation 0 are read back (rules R71, R102). -/
theorem decodeHsv_encode (h v : U8) : decodeHsv (encode (.convertAchromatic h v)) = .ok (.convertAchromatic h v) := by
  have hh := h.isLt
  have hv := v.isLt
  have hhue : BitVec.ofNat 8 ((h.toNat * 2 ^ 16 + v.toNat) / 2 ^ 16) = h := by
    rw [show (h.toNat * 2 ^ 16 + v.toNat) / 2 ^ 16 = h.toNat by omega, BitVec.ofNat_toNat, BitVec.setWidth_eq]
  have hval : BitVec.ofNat 8 (h.toNat * 2 ^ 16 + v.toNat) = v := by
    apply BitVec.eq_of_toNat_eq
    rw [BitVec.toNat_ofNat]
    omega
  rw [decodeHsv, encode, if_pos (by omega), if_pos (by omega), hhue, hval]

/-- The decoder undoes the encoder. -/
theorem decode_encode (i : Instr) : decode i.format (encode i) = .ok i := by
  cases i with
  | convertAchromatic h v => exact decodeHsv_encode h v
  | _ => rfl

/-- A code fits the width of its format (rule R70). -/
theorem encode_lt (i : Instr) : encode i < 2 ^ i.format.width := by
  cases i with
  | convertAchromatic h v => exact (Laws.CodeMatchesTable.convertAchromatic h v).2
  | _ => decide

/-- All eight PHASE codes are used (rules R84, R88 (e)). -/
theorem code_ofCode (c : BitVec 3) : (Phase.ofCode c).code = c := by
  revert c
  decide

/-- A number of three bits is a PHASE code (rules R84, R88 (e)). -/
theorem decodePhase_of_lt {w : Nat} (hw : w < 8) :
    decodePhase w = .ok (Phase.ofCode (BitVec.ofNat 3 w)).operation ∧ (Phase.ofCode (BitVec.ofNat 3 w)).code.toNat = w := by
  refine ⟨if_pos hw, ?_⟩
  rw [code_ofCode, BitVec.toNat_ofNat, Nat.mod_eq_of_lt hw]

namespace Machine

/-! ### The arm a hue selects -/

/-- The row of a region finishes CONVERT with the colour of its arm (rules R81, R108; log 12). -/
theorem exec_regionInstr (k : Fin 6) (s : State) : exec (regionInstr k) s =
    s.run (.next (finishConvert s.build (convertArm k s.core.regs.hue s.build.sat s.build.val) s.core)) := by
  fin_cases k <;> rfl

/-- The row of the selected arm finishes CONVERT with the colour of `convert` (rules R100, R102, R109). -/
theorem exec_selectArm (s : State) : exec (selectArm s.core.regs.hue s.build.sat s.build.val) s =
    s.run (.next (finishConvert s.build (convert s.core.regs.hue s.build.sat s.build.val) s.core)) := by
  unfold selectArm convert
  split
  · rfl
  · exact exec_regionInstr _ s

/-! ### A placed PHASE code -/

/-- A bare number of eight bits that is a PHASE code is read as one (log 17). -/
theorem decodeTableWord_code (p : Phase) : decodeTableWord 8 p.code.toNat = some p.operation := by
  cases p <;> rfl

/-- What is placed for an operation is PHASE, without reset (log 18). -/
theorem placeInstr_operation (p : Phase) (s : State) : placeInstr p.operation s = atPhase p s := by
  cases p <;> rfl

end Machine
end Sys2Proof

/-! ### The obligations -/

section
open Sys2Proof Sys2Proof.Machine

/-- Settles O1: `decode_encode` and `encode_lt`, row by row. -/
theorem decodingACodeGivesItsRow : Obligations.DecodingACodeGivesItsRow :=
  fun i => ⟨decode_encode i, encode_lt i⟩

/-- Settles O4: the decoder of the format reads both rows from the one code. -/
theorem noTwoRowsOfAFormatShareACode : Obligations.NoTwoRowsOfAFormatShareACode := by
  intro i j hformat hcode
  have hread := decode_encode i
  rw [hformat, hcode, decode_encode j, Except.ok.injEq] at hread
  exact hread.symm

/-- Settles O2: each word is the code of its row. -/
theorem writtenOutWordsDecodeToTheirRows : Obligations.WrittenOutWordsDecodeToTheirRows :=
  ⟨decode_encode .init, decode_encode .transmit, decode_encode .halt, decode_encode (.convertAchromatic 200 77),
    decode_encode .convertRegion5, decode_encode .sym0, decode_encode .sym1, decode_encode .gapcell, decode_encode .bb01,
    decode_encode .bb10, decode_encode .faultInitFailure, decode_encode .txerrTransportError⟩

/-- Settles O3: a number that is none of a format's codes falls through to the error that names it. -/
theorem strayCodesAreRejectedByName : Obligations.StrayCodesAreRejectedByName := by
  refine ⟨fun w h6 h8 => ?_, fun w hw h0 h1 hgap => ?_, fun w hw h00 h01 h10 h11 hgap => ?_, fun w i hw hi => ?_,
    fun w hw => ⟨_, decodePhase_of_lt hw⟩⟩
  · obtain rfl | rfl : w = 6 ∨ w = 7 := by omega
    all_goals rfl
  · simp [decode, decodeSymCode, h0, h1, hgap, hw]
  · simp [decode, decodeBusByte, h00, h01, h10, h11, hgap, hw]
  · interval_cases w <;> cases hi <;> decide

/-- Settles O5: the bounds are those of division by 43 on a byte. -/
theorem hueGivesRegionAndRemainder : Obligations.HueGivesRegionAndRemainder := by
  intro h
  have hlt := h.isLt
  have hregion : (region h).val = h.toNat / 43 := rfl
  have hremainder : remainder h = (h.toNat - h.toNat / 43 * 43) * 6 := rfl
  refine ⟨hregion, hremainder, Dvd.intro_left _ rfl, ?_, fun h5 => ?_, fun k => ?_⟩
  · omega
  · omega
  · rw [Fin.ext_iff, hregion]
    omega

/-- Settles O11: CONVERT and the row of the selected arm both finish with the colour of `convert`. -/
theorem convertRunsTheSelectedArm : Obligations.ConvertRunsTheSelectedArm :=
  fun s => (exec_selectArm s).symm

/-- Settles O36: FAULT.NONE keeps the core it finds, and the reserved codes have no other answer. -/
theorem faultCodesRaiseOrRefuse : Obligations.FaultCodesRaiseOrRefuse :=
  fun _ => ⟨rfl, rfl, rfl⟩

/-- Settles O39: the number is read as its operation, and what is placed for it is PHASE. -/
theorem placedPhaseCodeRunsNext : Obligations.PlacedPhaseCodeRunsNext := by
  intro s p hb placed
  have hplaced : s.withFetchWord 8 p.code.toNat = placed := by
    rw [State.withFetchWord, decodeTableWord_code]
    exact placeInstr_operation p s
  refine ⟨decodeTableWord_code p, ?_⟩
  rw [hplaced, step, coreStep_eq placed.core hb rfl]
  rfl

end
end

section
/-! PROOFS. Where the encoder puts each bit and each cell: the pixel word, the frame, and the default frame as bus bytes
(rules R50, R73 to R77, R127, R131). -/

namespace Sys2Proof.Machine

/-! ### Pieces of one length -/

/-- Pieces of one length laid end to end: piece `k` starts at `n * k`. -/
theorem getElem?_flatMap_const {α β : Type} {f : α → List β} {n : Nat} (hf : ∀ a, (f a).length = n) {l : List α}
    {k j : Nat} {a : α} (hk : l[k]? = some a) (hj : j < n) : (l.flatMap f)[n * k + j]? = (f a)[j]? := by
  induction l generalizing k with
  | nil => simp at hk
  | cons b l ih =>
    rw [List.flatMap_cons]
    cases k with
    | zero =>
      obtain rfl : b = a := by simpa using hk
      rw [Nat.mul_zero, Nat.zero_add, List.getElem?_append_left (by rwa [hf])]
    | succ k =>
      rw [List.getElem?_append_right (by rw [hf, Nat.mul_succ]; omega), hf, Nat.mul_succ,
        show n * k + n + j - n = n * k + j by omega, ih (by simpa using hk)]

/-! ### The pixel word -/

/-- The pixel word is the colour bytes in wire order, shifted out bit 7 first (rules R53 (c), R73). -/
theorem pixWord_eq (build : Config) (c : RGB) : pixWord build c = (build.chOrder.map c.channel).flatMap byteBits := by
  rw [List.flatMap_map]
  rfl

/-- The bits of a byte, read as a number after the bits of `n`. -/
theorem foldl_byteBits (n : Nat) (c : U8) :
    (byteBits c).foldl (fun n b => 2 * n + b.toNat) n = 256 * n + c.toNat := by
  have hc := c.isLt
  simp only [byteBits, List.foldl_cons, List.foldl_nil, BitVec.getLsbD, Nat.toNat_testBit]
  omega

/-- A byte is the number of its bits. -/
@[simp] theorem byteOfBits_byteBits (c : U8) : byteOfBits (byteBits c) = c := by
  simp [byteOfBits, foldl_byteBits]

/-! ### The frame -/

/-- Either protocol bit has a legal pattern (rules R74, R131). -/
theorem patternOk_sym {build : Config} (hok : build.ok = true) (b : Bool) : build.patternOk (sym build b) = true := by
  obtain ⟨-, hpat0, hpat1, -⟩ := config_ok_iff.mp hok
  cases b
  · exact hpat0
  · exact hpat1

/-- The first cell of a protocol bit is high, whichever bit it is (rule R131 (b)). -/
theorem sym_first {build : Config} (hok : build.ok = true) (b : Bool) : (sym build b)[0]? = some true := by
  obtain ⟨hrun, hpos, -⟩ := patternOk_iff.mp (patternOk_sym hok b)
  rw [hrun, List.getElem?_append_left (by rwa [List.length_replicate]), List.getElem?_replicate_of_lt hpos]

section Layout

variable {build : Config} (hok : build.ok = true)
include hok

/-- Cell `i` of protocol bit `j` of pixel `k` (rule R75). -/
theorem encodeFrame_cell {pixels : List RGB} {k j i : Nat} {c : RGB} {b : Bool} (hk : pixels[k]? = some c)
    (hj : (pixWord build c)[j]? = some b) (hi : i < build.nCell) :
    (encodeFrame build pixels)[24 * build.nCell * k + build.nCell * j + i]? = (sym build b)[i]? := by
  have hj24 : j < 24 := length_pixWord hok c ▸ (List.getElem?_eq_some_iff.mp hj).1
  have hin : build.nCell * j + i < 24 * build.nCell := by
    have := Nat.mul_le_mul_left build.nCell (Nat.succ_le_of_lt hj24)
    rw [Nat.mul_succ] at this
    omega
  have hpixel : (pixels.flatMap (pixCells build))[24 * build.nCell * k + build.nCell * j + i]? = (sym build b)[i]? := by
    rw [Nat.add_assoc, getElem?_flatMap_const (length_pixCells hok) hk hin]
    exact getElem?_flatMap_const (length_sym hok) hj hi
  have hsome := hpixel.trans (List.getElem?_eq_getElem (by rwa [length_sym hok]))
  rw [encodeFrame, List.getElem?_append_left (List.getElem?_eq_some_iff.mp hsome).1, hpixel]

/-- Cell `i` of the gap, which follows the last pixel (rules R75, R126). -/
theorem encodeFrame_gap (pixels : List RGB) {i : Nat} (hi : i < build.resetCells) :
    (encodeFrame build pixels)[24 * build.nCell * pixels.length + i]? = some false := by
  have hlen : (pixels.flatMap (pixCells build)).length = 24 * build.nCell * pixels.length := by
    rw [length_flatMap_const _ (length_pixCells hok), Nat.mul_comm]
  rw [encodeFrame, List.getElem?_append_right (by omega), hlen, Nat.add_sub_cancel_left, gap, List.getElem?_replicate,
    if_pos hi]

/-- The first cell of a frame is the first cell of its first symbol (rules R75, R131 (b)). -/
theorem encodeFrame_first {pixels : List RGB} (hne : pixels ≠ []) : (encodeFrame build pixels)[0]? = some true := by
  obtain ⟨c, cs, rfl⟩ := List.exists_cons_of_ne_nil hne
  have hbit : (pixWord build c)[0]? = some _ := List.getElem?_eq_getElem (by rw [length_pixWord hok]; decide)
  obtain ⟨hcells, -⟩ := config_ok_iff.mp hok
  have hcell := encodeFrame_cell hok (pixels := c :: cs) (k := 0) rfl hbit (i := 0) (by omega)
  rwa [sym_first hok] at hcell

end Layout

/-! ### The default frame as bytes -/

/-- The byte view undoes shifting out, bit 7 first (rule R50). -/
theorem byteView_flatMap_byteBits {n : Nat} {bytes : List U8} (h : bytes.length = n) :
    byteView n (bytes.flatMap byteBits) = bytes := by
  subst h
  induction bytes with
  | nil => rfl
  | cons c cs ih =>
    rw [List.length_cons, byteView, List.flatMap_cons, List.take_left' (length_byteBits c),
      List.drop_left' (length_byteBits c), byteOfBits_byteBits, ih]

/-- A bus byte is the default patterns of its two bits (rules R76, R77). -/
theorem byteBits_busByte (a b : Bool) : byteBits (busByte a b) = sym Config.default a ++ sym Config.default b := by
  revert a b
  decide

/-- The symbols of a byte in the default patterns are its four bus bytes, shifted out (rule R77). -/
theorem flatMap_sym_byteBits (c : U8) : (byteBits c).flatMap (sym Config.default) = (expandByte c).flatMap byteBits := by
  simp only [expandByte, List.flatMap_cons, List.flatMap_nil, byteBits_busByte, List.append_assoc]
  rfl

/-- Low cells in whole bytes are bytes 00 (rules R76, R126). -/
theorem replicate_false_eq_bytes (n : Nat) :
    List.replicate (n * 8) false = (List.replicate n (0 : U8)).flatMap byteBits := by
  have hzero : byteBits 0 = List.replicate 8 false := by decide
  rw [List.flatMap, List.map_replicate, hzero, List.flatten_replicate_replicate]

/-- The default frame is its bus bytes, shifted out (rule R77). -/
theorem encodeFrame_default (c : RGB) : encodeFrame Config.default [c] =
    (expandByte c.g ++ expandByte c.r ++ expandByte c.b ++ List.replicate 140 0).flatMap byteBits := by
  have hpixel : pixCells Config.default c = (expandByte c.g ++ expandByte c.r ++ expandByte c.b).flatMap byteBits := by
    simp only [List.flatMap_append, ← flatMap_sym_byteBits, pixCells]
    simp [pixWord, Config.default, RGB.channel]
  rw [encodeFrame, List.flatMap_singleton, hpixel, List.flatMap_append (ys := List.replicate 140 0),
    ← replicate_false_eq_bytes 140]
  rfl

end Sys2Proof.Machine

/-! ### The obligations -/

section
open Sys2Proof Sys2Proof.Machine

/-- Settles O12: bit `j` stands in byte `j / 8` of the wire order; as a number, each byte follows the ones before it. -/
theorem pixelWordIsInWireOrder : Obligations.PixelWordIsInWireOrder := by
  intro build c hok
  obtain ⟨-, -, -, -, ⟨horder, -⟩, -⟩ := config_ok_iff.mp hok
  refine ⟨length_pixWord hok c, fun j hj => ?_, fun hdefault => ?_⟩
  · have hch : build.chOrder[j / 8]? = some _ := List.getElem?_eq_getElem (by omega)
    refine ⟨_, hch, ?_⟩
    have hbit := getElem?_flatMap_byteBits (build.chOrder.map c.channel) (j / 8) (Nat.mod_lt j (by decide))
    rwa [Nat.div_add_mod, ← pixWord_eq, List.getElem?_map, hch] at hbit
  · simp only [pixWord, hdefault, List.flatMap_cons, List.flatMap_nil, List.append_nil, List.foldl_append,
      foldl_byteBits, RGB.channel]
    omega

/-- Settles O13: pixels, symbols and cells are pieces of one length each, laid end to end before the gap. -/
theorem frameHasItsLayout : Obligations.FrameHasItsLayout := by
  intro build pixels hok
  refine ⟨?_, fun k j i c b hk hj hi => encodeFrame_cell hok hk hj hi, fun i hi => encodeFrame_gap hok pixels hi,
    encodeFrame_first hok⟩
  rw [length_encodeFrame hok]
  ring

/-- Settles O16: the byte view of bytes shifted out is the bytes. -/
theorem defaultFrameIsItsBusBytes : Obligations.DefaultFrameIsItsBusBytes := by
  intro c
  refine ⟨?_, byteBits_busByte, by decide⟩
  rw [encodeFrame_default]
  exact byteView_flatMap_byteBits rfl

end
end

section
/-! PROOFS. Groups of cells: what a SYM or BUSBYTE row drives, and that a group as one row is its cells as steps of TRANSMIT
(rules R74, R76, R124, R126, R145; log 12, 14, 30). -/

namespace Sys2Proof.Machine

/-! ### A group of cells as one row -/

/-- One pulse of `sclk` for each cell (rule R145). -/
@[simp] theorem driveCells_sclk (cells : List Bool) (c : CoreState) :
    (driveCells cells c).sclk = c.sclk ++ (List.replicate cells.length [true, false]).flatten := by
  induction cells generalizing c with
  | nil => simp
  | cons x xs ih => simp [ih, List.replicate_succ]

@[simp] theorem driveCells_mosi (cells : List Bool) (c : CoreState) :
    (driveCells cells c).mosi = c.mosi ++ cells := by
  induction cells generalizing c with
  | nil => simp
  | cons x xs ih => simp [ih]

@[simp] theorem driveCells_trace (cells : List Bool) (c : CoreState) : (driveCells cells c).trace = c.trace := by
  induction cells generalizing c with
  | nil => rfl
  | cons x xs ih => rw [driveCells_cons, ih, driveCell_trace]

/-- A group that ends low leaves the line low, its cells on `mosi`, and everything it does not drive as it was (rule R145). -/
theorem driveCells_of_endsLow {cells : List Bool} (hlow : cells.getLast? = some false) (c : CoreState) :
    driveCells cells c = { c with
      regs.line := false
      regs.txidx := c.regs.txidx + cells.length
      regs.phase := .transmit
      sclk := c.sclk ++ (List.replicate cells.length [true, false]).flatten
      mosi := c.mosi ++ cells } := by
  have hne : cells ≠ [] := by
    rintro rfl
    cases hlow
  have hregs := driveCells_regs cells c
  rw [List.getLastD_eq_getLast?, hlow, if_neg hne, Option.getD_some] at hregs
  calc driveCells cells c = ⟨(driveCells cells c).regs, (driveCells cells c).sclk, (driveCells cells c).mosi,
        (driveCells cells c).diag, (driveCells cells c).trace⟩ := rfl
    _ = _ := by rw [hregs, driveCells_sclk, driveCells_mosi, driveCells_diag, driveCells_trace]

/-- A group that fits before the end of the frame is driven (rules R74, R76). -/
theorem driveGroup_of_fits {cells : List Bool} {s : State}
    (hfit : s.core.regs.txidx + cells.length ≤ s.build.frameCells) :
    driveGroup cells s = .next { s with core := driveCells cells s.core } := by
  rw [driveGroup, if_pos hfit, run_next]

/-- Past the end of the frame there is no cell (rule R50; log 14). -/
theorem driveGroup_of_not_fits {cells : List Bool} {s : State}
    (hpast : s.build.frameCells < s.core.regs.txidx + cells.length) :
    driveGroup cells s = .fault .cellIndexOutOfRange := by
  rw [driveGroup, if_neg (Nat.not_le.mpr hpast), run_fault]

/-- The last cell of a protocol bit is low, whichever bit it is (rule R131 (b)). -/
theorem sym_getLast? {build : Config} (hok : build.ok = true) (b : Bool) : (sym build b).getLast? = some false := by
  obtain ⟨hrun, -, hhigh⟩ := patternOk_iff.mp (patternOk_sym hok b)
  have hrest : build.nCell - Config.highCells (sym build b) ≠ 0 := by omega
  rw [hrun, List.getLast?_append, List.getLast?_replicate, if_neg hrest, Option.some_or]

/-! ### A group of cells as steps of TRANSMIT -/

/-- A step of an accepted transfer with a pulse and a cell left drives that cell (rules R145, R161). -/
theorem step_of_pulse {s : State} {x : Bool} (hb : buildRefusal s.build = none) (hr : s.env.pins.rst = false)
    (hp : s.core.regs.phase = .transmit) (hgrant : s.env.granted = true)
    (hidx : s.core.regs.txidx < s.build.frameCells) (hpulse : s.env.pins.cellEn = true)
    (hx : s.core.regs.framebuf.readCell s.core.regs.txidx = some x) :
    ∃ t, step s = .next t ∧ t.core = driveCell x (strobesLow s.core) ∧ t.build = s.build
      ∧ t.env = s.env.turn .transmit .transmit := by
  have hexec := execTransmit_accepted (s := ⟨s.build, strobesLow s.core, s.env⟩) (.inl hgrant)
  have htransfer : transferStep s.build s.env (strobesLow s.core) = .next (driveCell x (strobesLow s.core)) := by
    simp [transferStep, hidx, cellPulse, hpulse, hx]
  have hcore : coreStep s.build s.env s.core = .next (driveCell x (strobesLow s.core)) := by
    rw [coreStep_eq s.core hb hr, hp]
    exact (congrArg coreOutcome hexec).trans ((coreOutcome_run _ _).trans htransfer)
  exact ⟨_, step_of_core hcore, rfl, rfl, by rw [hp]; rfl⟩

/-- By induction on the cells: each step drives the first cell left, and the transfer stays accepted. -/
theorem runSteps_drives (cells : List Bool) {s : State} (hb : buildRefusal s.build = none)
    (hp : s.core.regs.phase = .transmit) (hgrant : s.env.granted = true)
    (hfit : s.core.regs.txidx + cells.length ≤ s.build.frameCells)
    (hbuf : ∀ k, k < cells.length → s.core.regs.framebuf.readCell (s.core.regs.txidx + k) = cells[k]?)
    (hreset : NoReset s cells.length) (hpulse : ∀ k, k < cells.length → (pinsAt s k).cellEn = true) :
    ∃ t, runSteps cells.length s = .next t ∧ t.core.regs = (driveCells cells s.core).regs
      ∧ t.core.trace = s.core.trace ∧ t.env.granted = true := by
  induction cells generalizing s with
  | nil => exact ⟨s, rfl, rfl, rfl, hgrant⟩
  | cons x xs ih =>
    rw [List.length_cons] at hfit hbuf hreset hpulse
    obtain ⟨u, hu, hcore, hbuild, henv⟩ := step_of_pulse hb hreset.first hp hgrant (by omega)
      (by simpa using hpulse 0 (Nat.succ_pos _)) (hbuf 0 (Nat.succ_pos _))
    have hidx : u.core.regs.txidx = s.core.regs.txidx + 1 := by simp [hcore]
    have hbuf' : ∀ k, k < xs.length → u.core.regs.framebuf.readCell (u.core.regs.txidx + k) = xs[k]? := by
      intro k hk
      rw [hidx, Nat.add_assoc, Nat.add_comm 1, hcore]
      exact hbuf (k + 1) (Nat.succ_lt_succ hk)
    have hpulse' : ∀ k, k < xs.length → (pinsAt u k).cellEn = true := by
      intro k hk
      rw [pinsAt_turn henv]
      exact hpulse (k + 1) (Nat.succ_lt_succ hk)
    obtain ⟨t, hrun, hregs, htrace, hgrant'⟩ := ih (s := u) (by rwa [hbuild]) (by simp [hcore]) (by simp [henv])
      (by rw [hidx, hbuild]; omega) hbuf' (noReset_turn henv hreset) hpulse'
    refine ⟨t, by rwa [List.length_cons, runSteps_succ _ hu], ?_, by simp [htrace, hcore], hgrant'⟩
    rw [hregs, hcore, driveCells_cons, driveCells_regs, driveCells_regs]
    rfl

end Sys2Proof.Machine

/-! ### The obligations -/

section
open Sys2Proof Sys2Proof.Machine

/-- Settles O32: the patterns and the gap group have N_CELL cells, the last one low. -/
theorem symbolRowsDriveTheirCells : Obligations.SymbolRowsDriveTheirCells := by
  intro s hok driven
  obtain ⟨hcells, -⟩ := config_ok_iff.mp hok
  have hgap : (List.replicate s.build.nCell false).getLast? = some false := by
    rw [List.getLast?_replicate, if_neg (by omega)]
  have hgapLen : (List.replicate s.build.nCell false).length = s.build.nCell := List.length_replicate
  refine ⟨fun hfit => ?_, fun hpast => ?_⟩
  · have drives : ∀ cells : List Bool, cells.length = s.build.nCell → cells.getLast? = some false →
        driveGroup cells s = .next (driven cells) := by
      intro cells hlen hlow
      rw [driveGroup_of_fits (by rwa [hlen]), driveCells_of_endsLow hlow, hlen]
    exact ⟨drives _ (length_sym hok false) (sym_getLast? hok false),
      drives _ (length_sym hok true) (sym_getLast? hok true), drives _ hgapLen hgap⟩
  · exact ⟨driveGroup_of_not_fits (by rwa [length_sym hok]), driveGroup_of_not_fits (by rwa [length_sym hok]),
      driveGroup_of_not_fits (by rwa [hgapLen])⟩

/-- Settles O33: a byte of the table is eight cells, the last one low. -/
theorem busByteRowsDriveTheirCells : Obligations.BusByteRowsDriveTheirCells := by
  intro s driven
  refine ⟨fun hfit => ?_, fun hpast i hi => ?_⟩
  · have drives : ∀ c : U8, (byteBits c).getLast? = some false → driveGroup (byteBits c) s = .next (driven (byteBits c)) := by
      intro c hlow
      rw [driveGroup_of_fits (by rwa [length_byteBits]), driveCells_of_endsLow hlow]
      rfl
    exact ⟨drives 0x88 rfl, drives 0x8E rfl, drives 0xE8 rfl, drives 0xEE rfl, drives 0x00 rfl⟩
  · have stops : ∀ c : U8, driveGroup (byteBits c) s = .fault .cellIndexOutOfRange :=
      fun c => driveGroup_of_not_fits (by rwa [length_byteBits])
    simp only [List.mem_cons, List.not_mem_nil, or_false] at hi
    rcases hi with rfl | rfl | rfl | rfl | rfl <;> exact stops _

/-- Settles O34: each row of the list drives its group, and so do that many steps of TRANSMIT. -/
theorem cellGroupIsItsTransmitSteps : Obligations.CellGroupIsItsTransmitSteps := by
  intro s i cells hb hrow hp hgrant hfit hbuf hreset hpulse
  have hexec : exec i s = driveGroup cells s := by
    simp only [List.mem_cons, List.not_mem_nil, or_false, Prod.mk.injEq] at hrow
    rcases hrow with ⟨rfl, rfl⟩ | ⟨rfl, rfl⟩ | ⟨rfl, rfl⟩ | ⟨rfl, rfl⟩ | ⟨rfl, rfl⟩ | ⟨rfl, rfl⟩ | ⟨rfl, rfl⟩ | ⟨rfl, rfl⟩
      <;> rfl
  obtain ⟨t, hrun, hregs, htrace, hgrant'⟩ := runSteps_drives cells hb hp hgrant hfit hbuf hreset hpulse
  refine ⟨t, _, hrun, hexec.trans (driveGroup_of_fits hfit), hregs, ?_, hgrant'.trans hgrant.symm⟩
  rw [htrace, driveCells_trace]

end
end

section
/-! PROOFS. The Color Converter: the bounds on its terms, what it answers in each region, the terms in a domain of any
width from 16 bits, and the steps between neighbouring hues (rules R100 to R114). -/

namespace Sys2Proof.Machine

/-! ### The terms -/

/-- A byte scaled by at most 255/256 loses at least one, unless it is 0 (rule R111). -/
theorem scaled_le_pred (v : U8) {n : Nat} (hn : n ≤ 255) : v.toNat * n / 256 ≤ v.toNat - 1 := by
  have hmul := Nat.mul_le_mul_left v.toNat hn
  omega

theorem scaled_le_254 (v : U8) {n : Nat} (hn : n ≤ 255) : v.toNat * n / 256 ≤ 254 := by
  have hscaled := scaled_le_pred v hn
  have hv := v.isLt
  omega

theorem termP_le_pred (s v : U8) : termP s v ≤ v.toNat - 1 :=
  scaled_le_pred v (Nat.sub_le _ _)

theorem termQ_le_pred (h s v : U8) : termQ h s v ≤ v.toNat - 1 :=
  scaled_le_pred v (Nat.sub_le _ _)

theorem termT_le_pred (h s v : U8) : termT h s v ≤ v.toNat - 1 :=
  scaled_le_pred v (Nat.sub_le _ _)

theorem remainder_le (h : U8) : remainder h ≤ 252 := by
  obtain ⟨-, -, -, hle, -⟩ := hueGivesRegionAndRemainder h
  exact hle

/-- A smaller share of the saturation leaves more of the value. -/
theorem termP_le_scaled (s v : U8) {x : Nat} (hx : x ≤ 255) :
    termP s v ≤ v.toNat * (255 - s.toNat * x / 256) / 256 := by
  have hshare := scaled_le_pred s hx
  exact Nat.div_le_div_right (Nat.mul_le_mul_left _ (by omega))

theorem termP_le_termQ (h s v : U8) : termP s v ≤ termQ h s v :=
  termP_le_scaled s v ((remainder_le h).trans (by decide))

theorem termP_le_termT (h s v : U8) : termP s v ≤ termT h s v :=
  termP_le_scaled s v (Nat.sub_le _ _)

theorem toNat_ofNat_of_lt {w n : Nat} (hn : n < 2 ^ w) : (BitVec.ofNat w n).toNat = n :=
  (BitVec.toNat_ofNat n w).trans (Nat.mod_eq_of_lt hn)

/-- Narrowing loses nothing of what does not exceed a byte (rule R110). -/
theorem toNat_narrow {n : Nat} {v : U8} (hn : n ≤ v.toNat - 1) : (narrow n).toNat = n := by
  have hv := v.isLt
  exact toNat_ofNat_of_lt (by omega)

theorem toNat_narrow_termP (s v : U8) : (narrow (termP s v)).toNat = termP s v :=
  toNat_narrow (termP_le_pred s v)

theorem toNat_narrow_termQ (h s v : U8) : (narrow (termQ h s v)).toNat = termQ h s v :=
  toNat_narrow (termQ_le_pred h s v)

theorem toNat_narrow_termT (h s v : U8) : (narrow (termT h s v)).toNat = termT h s v :=
  toNat_narrow (termT_le_pred h s v)

/-- No value, no term (rule R111). -/
theorem terms_of_val_zero (h s : U8) : termP s 0 = 0 ∧ termQ h s 0 = 0 ∧ termT h s 0 = 0 :=
  ⟨Nat.le_zero.mp (termP_le_pred s 0), Nat.le_zero.mp (termQ_le_pred h s 0), Nat.le_zero.mp (termT_le_pred h s 0)⟩

theorem termP_of_sat_full (v : U8) : termP 255 v = 0 := by
  simp [termP]

/-- At the first hue of a region `q` is at its largest (rule R106). -/
theorem termQ_of_remainder_zero {h : U8} (hr : remainder h = 0) (s v : U8) : termQ h s v = v.toNat * 255 / 256 := by
  simp [termQ, hr]

/-- At the first hue of a region and full saturation `t` is 0 (rule R113 (b)). -/
theorem termT_of_remainder_zero {h : U8} (hr : remainder h = 0) (v : U8) : termT h 255 v = 0 := by
  have hv := v.isLt
  simp [termT, hr, hv]

/-! ### The arms -/

theorem convert_of_sat_zero (h v : U8) : convert h 0 v = ⟨v, v, v⟩ :=
  if_pos rfl

theorem convert_of_region {h s : U8} (v : U8) (hs : s ≠ 0) (k : Fin 6) (hk : h.toNat / 43 = k.val) :
    convert h s v = convertArm k h s v := by
  rw [convert, if_neg hs, show region h = k from Fin.ext hk]

/-- The channel assignment of rule R108 over any bytes in place of the terms. -/
def assign (k : Fin 6) (v p q t : U8) : RGB :=
  match k with
  | 0 => ⟨v, t, p⟩
  | 1 => ⟨q, v, p⟩
  | 2 => ⟨p, v, t⟩
  | 3 => ⟨p, q, v⟩
  | 4 => ⟨t, p, v⟩
  | 5 => ⟨v, p, q⟩

theorem convertArm_eq_assign (k : Fin 6) (h s v : U8) :
    convertArm k h s v = assign k v (narrow (termP s v)) (narrow (termQ h s v)) (narrow (termT h s v)) := by
  fin_cases k <;> rfl

/-- Without value every arm is black (rule R111). -/
theorem convertArm_of_val_zero (k : Fin 6) (h s : U8) : convertArm k h s 0 = ⟨0, 0, 0⟩ := by
  obtain ⟨hp, hq, ht⟩ := terms_of_val_zero h s
  rw [convertArm_eq_assign, hp, hq, ht]
  fin_cases k <;> rfl

theorem convert_of_val_zero (h s : U8) : convert h s 0 = ⟨0, 0, 0⟩ := by
  unfold convert
  split
  · rfl
  · exact convertArm_of_val_zero _ h s

/-- At full saturation the first hue of a region has `p` and `t` 0 and `q` at its largest (rule R113 (b), (c)). -/
theorem convert_firstHue (k : Fin 6) {h : U8} (hh : h.toNat = 43 * k.val) (v : U8) :
    convert h 255 v = assign k v 0 (narrow (v.toNat * 255 / 256)) 0 := by
  have hr : remainder h = 0 := by
    obtain ⟨-, hrem, -⟩ := hueGivesRegionAndRemainder h
    omega
  rw [convert_of_region v (by decide) k (by omega), convertArm_eq_assign, termP_of_sat_full, termQ_of_remainder_zero hr,
    termT_of_remainder_zero hr]
  rfl

/-- What finishing CONVERT leaves, field by field (rules R31, R164). -/
theorem finishConvert_eq (build : Config) (x : RGB) (c : CoreState) : finishConvert build x c =
    { c with
      regs := { c.regs with r := x.r, g := x.g, b := x.b, phase := .encode }
      trace := if build.diagPresent then c.trace ++ [.diag c.regs.hue] else c.trace
      diag := if build.diagPresent then some c.regs.hue else c.diag } := by
  unfold finishConvert showDiag
  split <;> rfl

/-! ### A domain of 16 bits or more -/

section Wide
variable {w : Nat} (hw : 16 ≤ w)
include hw

theorem two_pow_sixteen_le : 2 ^ 16 ≤ 2 ^ w :=
  Nat.pow_le_pow_right (by decide) hw

theorem toNat_wide (v : U8) : (v.setWidth w).toNat = v.toNat :=
  BitVec.toNat_setWidth_of_le (le_trans (by decide : 8 ≤ 16) hw)

theorem toNat_wideLiteral {n : Nat} (hn : n ≤ 255) : (BitVec.ofNat w n).toNat = n := by
  have hpow := two_pow_sixteen_le hw
  exact toNat_ofNat_of_lt (by omega)

theorem toNat_wideMul {x y : BitVec w} (hx : x.toNat ≤ 255) (hy : y.toNat ≤ 255) :
    (x * y).toNat = x.toNat * y.toNat := by
  have hpow := two_pow_sixteen_le hw
  have hmul := Nat.mul_le_mul hx hy
  exact BitVec.toNat_mul_of_lt (by omega)

/-- The complement to 255 does not go below zero (rule R110). -/
theorem toNat_wideComplement {x : BitVec w} {n : Nat} (hx : x.toNat = n) (hn : n ≤ 255) :
    (255#w - x).toNat = 255 - n := by
  have h255 := toNat_wideLiteral hw (n := 255) le_rfl
  rw [BitVec.toNat_sub_of_le (BitVec.le_def.mpr (by omega)), h255, hx]

/-- Scaling a byte does not wrap, and shifting right by 8 divides by 256 (rule R110). -/
theorem toNat_wideScaled (v : U8) {x : BitVec w} {n : Nat} (hx : x.toNat = n) (hn : n ≤ 255) :
    ((v.setWidth w * x) >>> 8).toNat = v.toNat * n / 256 := by
  have hv := toNat_wide hw v
  rw [BitVec.toNat_ushiftRight, Nat.shiftRight_eq_div_pow, toNat_wideMul hw (by omega) (by omega), hv, hx]

/-- Scaling by the complement of a share of the saturation: `q` and `t` in one (rules R106, R107). -/
theorem toNat_wideTerm (s v : U8) {x : BitVec w} {n : Nat} (hx : x.toNat = n) (hn : n ≤ 255) :
    ((v.setWidth w * (255#w - (s.setWidth w * x) >>> 8)) >>> 8).toNat
      = v.toNat * (255 - s.toNat * n / 256) / 256 := by
  have hshare := scaled_le_254 s hn
  exact toNat_wideScaled hw v (toNat_wideComplement hw (toNat_wideScaled hw s hx hn) (by omega)) (Nat.sub_le _ _)

theorem toNat_wideRemainder (h : U8) :
    ((h.setWidth w - h.setWidth w / 43#w * 43#w) * 6#w).toNat = remainder h := by
  have hh := toNat_wide hw h
  have hlt := h.isLt
  have h43 := toNat_wideLiteral hw (n := 43) (by decide)
  have h6 := toNat_wideLiteral hw (n := 6) (by decide)
  have hdiv : (h.setWidth w / 43#w).toNat = h.toNat / 43 := by
    rw [BitVec.toNat_udiv, hh, h43]
  have hstart : (h.setWidth w / 43#w * 43#w).toNat = h.toNat / 43 * 43 := by
    rw [toNat_wideMul hw (by omega) (by omega), hdiv, h43]
  have hpos : (h.setWidth w - h.setWidth w / 43#w * 43#w).toNat = h.toNat - h.toNat / 43 * 43 := by
    rw [BitVec.toNat_sub_of_le (BitVec.le_def.mpr (by omega)), hh, hstart]
  rw [toNat_wideMul hw (by omega) (by omega), hpos, h6]
  rfl

end Wide

/-! ### Neighbouring hues -/

/-- Two levels at most 3 apart (rule R114). -/
def Near (a b : U8) : Prop :=
  a.toNat ≤ b.toNat + 3 ∧ b.toNat ≤ a.toNat + 3

/-- Two colours with no channel more than 3 apart (rule R114). -/
def SmallStep (x y : RGB) : Prop :=
  Near x.r y.r ∧ Near x.g y.g ∧ Near x.b y.b

theorem near_refl (a : U8) : Near a a :=
  ⟨Nat.le_add_right _ _, Nat.le_add_right _ _⟩

/-- The next hue of the same region has a remainder 6 larger (rule R104). -/
theorem nextHue_in_region {h h' : U8} (hnext : h'.toNat = h.toNat + 1) (hlast : h.toNat % 43 ≠ 42) :
    region h' = region h ∧ remainder h' = remainder h + 6 := by
  obtain ⟨hk, hr, -⟩ := hueGivesRegionAndRemainder h
  obtain ⟨hk', hr', -⟩ := hueGivesRegionAndRemainder h'
  rw [Fin.ext_iff]
  omega

theorem toNat_sat_full : (255 : U8).toNat = 255 := rfl

theorem toNat_val_default : (100 : U8).toNat = 100 := rfl

theorem near_termQ {h h' : U8} (hr : remainder h' = remainder h + 6) :
    Near (narrow (termQ h 255 100)) (narrow (termQ h' 255 100)) := by
  rw [Near, toNat_narrow_termQ, toNat_narrow_termQ, termQ, termQ, hr, toNat_sat_full, toNat_val_default]
  omega

theorem near_termT {h h' : U8} (hr : remainder h' = remainder h + 6) :
    Near (narrow (termT h 255 100)) (narrow (termT h' 255 100)) := by
  rw [Near, toNat_narrow_termT, toNat_narrow_termT, termT, termT, hr, toNat_sat_full, toNat_val_default]
  omega

/-- Under one channel assignment the colour steps as its terms do. -/
theorem smallStep_assign (k : Fin 6) (v p : U8) {q q' t t' : U8} (hq : Near q q') (ht : Near t t') :
    SmallStep (assign k v p q t) (assign k v p q' t') := by
  have hv := near_refl v
  have hp := near_refl p
  match k with
  | 0 => exact ⟨hv, ht, hp⟩
  | 1 => exact ⟨hq, hv, hp⟩
  | 2 => exact ⟨hp, hv, ht⟩
  | 3 => exact ⟨hp, hq, hv⟩
  | 4 => exact ⟨ht, hp, hv⟩
  | 5 => exact ⟨hv, hp, hq⟩

theorem smallStep_in_region {h h' : U8} (hnext : h'.toNat = h.toNat + 1) (hlast : h.toNat % 43 ≠ 42) :
    SmallStep (convert h 255 100) (convert h' 255 100) := by
  obtain ⟨hk, hr⟩ := nextHue_in_region hnext hlast
  rw [convert_of_region 100 (by decide) (region h) rfl,
    convert_of_region 100 (by decide) (region h) (congrArg Fin.val hk), convertArm_eq_assign, convertArm_eq_assign]
  exact smallStep_assign _ _ _ (near_termQ hr) (near_termT hr)

/-- From the last hue of each of regions 0 to 4 to the first of the region after it. -/
theorem smallStep_at_boundary (k : Fin 5) :
    SmallStep (convert (BitVec.ofNat 8 (43 * k.val + 42)) 255 100)
      (convert (BitVec.ofNat 8 (43 * k.val + 42 + 1)) 255 100) := by
  unfold SmallStep Near
  revert k
  decide

theorem smallStep_nextHue {n : Nat} (hn : n < 255) :
    SmallStep (convert (BitVec.ofNat 8 n) 255 100) (convert (BitVec.ofNat 8 (n + 1)) 255 100) := by
  by_cases hlast : n % 43 = 42
  · have hboundary := smallStep_at_boundary ⟨n / 43, by omega⟩
    rwa [show 43 * (n / 43) + 42 = n by omega] at hboundary
  · have hhue : (BitVec.ofNat 8 n).toNat = n := toNat_ofNat_of_lt (by omega)
    have hnext : (BitVec.ofNat 8 (n + 1)).toNat = n + 1 := toNat_ofNat_of_lt (by omega)
    exact smallStep_in_region (by rw [hnext, hhue]) (by rwa [hhue])

end Sys2Proof.Machine

/-! ### The obligations -/

section
open Sys2Proof Sys2Proof.Machine

/-- Settles O6: `p`, `q`, `t` are the narrowed terms, and a region's quotient selects its arm. -/
theorem convertFollowsTheAlgorithm : Obligations.ConvertFollowsTheAlgorithm := by
  intro h s v
  refine ⟨fun hs => hs ▸ convert_of_sat_zero h v, fun hs => ?_⟩
  have arm := convert_of_region (h := h) v hs
  exact ⟨narrow (termP s v), narrow (termQ h s v), narrow (termT h s v), toNat_narrow_termP s v,
    toNat_narrow_termQ h s v, toNat_narrow_termT h s v, arm 0, arm 1, arm 2, arm 3, arm 4, arm 5, div43_lt_six h⟩

/-- Settles O7: each term is the value scaled by at most 255/256, `p` by no more than `q` and `t`. -/
theorem converterTermsAreBounded : Obligations.ConverterTermsAreBounded := by
  intro h s v
  have hv := v.isLt
  have hp := termP_le_pred s v
  have hq := termQ_le_pred h s v
  have ht := termT_le_pred h s v
  refine ⟨fun _ => ⟨termP_le_termQ h s v, by omega, termP_le_termT h s v, by omega⟩, fun _ _ => ⟨hp, hq, ht⟩,
    by omega, by omega, by omega, fun hblack => hblack ▸ convert_of_val_zero h s,
    fun hfull => hfull ▸ termP_of_sat_full v⟩

/-- Settles O8: no product of two bytes wraps in 16 bits, and no complement to 255 goes below zero. -/
theorem sixteenBitsAreEnoughForTheTerms : Obligations.SixteenBitsAreEnoughForTheTerms := by
  intro w h s v hw hue sat val rem
  have hrem : rem.toNat = remainder h := toNat_wideRemainder hw h
  have hr := remainder_le h
  have hs : s.toNat ≤ 255 := Nat.le_of_lt_succ s.isLt
  have hv : v.toNat ≤ 255 := Nat.le_of_lt_succ v.isLt
  have hshare : s.toNat * remainder h ≤ 255 * 252 := Nat.mul_le_mul hs hr
  have hp := toNat_wideScaled hw v (toNat_wideComplement hw (toNat_wide hw s) hs) (Nat.sub_le _ _)
  have hq := toNat_wideTerm hw s v hrem (by omega)
  have ht := toNat_wideTerm hw s v (toNat_wideComplement hw hrem (by omega)) (Nat.sub_le _ _)
  have product : ∀ {a : U8}, a.toNat ≤ 255 → ∀ n, a.toNat * (255 - n) ≤ 65025 :=
    fun ha n => Nat.mul_le_mul ha (Nat.sub_le 255 n)
  have saturated : 1 ≤ s.toNat → v.toNat * (255 - s.toNat) ≤ 64770 :=
    fun hs1 => Nat.mul_le_mul hv (show 255 - s.toNat ≤ 254 by omega)
  have quotient := fun (a : U8) (n : Nat) => scaled_le_254 a (Nat.sub_le 255 n)
  refine ⟨hrem, hp, hq, ht, product hs _, by omega, product hv _, saturated, by omega, quotient s _,
    Nat.div_mul_le_self h.toNat 43, quotient v _, quotient v _, quotient v _, fun hfull hfirst => ?_,
    fun hfull hnone => ?_⟩
  · rw [hfull, hfirst]
    rfl
  · rw [hfull, hnone]
    rfl

/-- Settles O9: at the first hue of a region the remainder is 0, so `p` and `t` are 0 and `q` is `q0`. -/
theorem convertHasTheSourceProperties : Obligations.ConvertHasTheSourceProperties := by
  refine ⟨convert_of_sat_zero, convert_firstHue 0 rfl, fun v => ?_⟩
  have hv := v.isLt
  have hq0 : (narrow (v.toNat * 255 / 256)).toNat = v.toNat * 255 / 256 :=
    toNat_narrow (scaled_le_pred v (Nat.le_refl 255))
  exact ⟨_, hq0, by omega, convert_firstHue 1 rfl v, convert_firstHue 2 rfl v, convert_firstHue 3 rfl v,
    convert_firstHue 4 rfl v, convert_firstHue 5 rfl v⟩

/-- Settles O10: inside a region `q` and `t` move by at most 3; the five boundaries and the wrap are computed. -/
theorem colourJumpsAtTheHueWrapOnly : Obligations.ColourJumpsAtTheHueWrapOnly := by
  refine ⟨fun h ch => ?_, by decide⟩
  obtain ⟨hred, hgreen, hblue⟩ := smallStep_nextHue h.isLt
  match ch with
  | 0 => exact hred
  | 1 => exact hgreen
  | 2 => exact hblue

/-- Settles O31: every arm's row finishes CONVERT with the arm's colour. -/
theorem converterArmRowsWriteTheirColour : Obligations.ConverterArmRowsWriteTheirColour := by
  intro s done
  have finished : ∀ x : RGB, s.run (.next (finishConvert s.build x s.core)) = .next (done x) :=
    fun x => by rw [finishConvert_eq, run_next]
  have row : ∀ k : Fin 6,
      exec (regionInstr k) s = .next (done (convertArm k s.core.regs.hue s.build.sat s.build.val)) :=
    fun k => (exec_regionInstr k s).trans (finished _)
  exact ⟨fun _ v => finished (achromatic v), _, _, _, toNat_narrow_termP _ _, toNat_narrow_termQ _ _ _,
    toNat_narrow_termT _ _ _, row 0, row 1, row 2, row 3, row 4, row 5⟩

end
end

section
/-! PROOFS. The decoders undo the encoder, cell by cell and run by run, and the shape of a frame in the patterns `1000`
and `1110` (rules R89, R127, R128, R131, R133). -/

namespace Sys2Proof.Machine

/-! ### A frame as the symbols of its protocol bits -/

/-- A frame is the symbols of its protocol bits, then the gap (rules R125, R127). -/
theorem encodeFrame_eq (build : Config) (pixels : List RGB) :
    encodeFrame build pixels = (pixels.flatMap (pixWord build)).flatMap (sym build) ++ gap build := by
  rw [encodeFrame, List.flatMap_assoc]
  rfl

/-- A pixel has 24 protocol bits (rule R73). -/
theorem length_frameBits {build : Config} (hok : build.ok = true) (pixels : List RGB) :
    (pixels.flatMap (pixWord build)).length = pixels.length * 24 :=
  length_flatMap_const _ (length_pixWord hok)

/-- What follows the last pixel is the gap (rules R126, R127). -/
theorem drop_pixelPart {build : Config} (hok : build.ok = true) (pixels : List RGB) :
    (encodeFrame build pixels).drop (pixels.length * 24 * build.nCell) = gap build := by
  rw [encodeFrame_eq, List.drop_left' (by rw [length_flatMap_const _ (length_sym hok), length_frameBits hok])]

/-- A symbol is its high cells, then its low cells (rule R131 (b)). -/
theorem sym_eq_replicate {build : Config} (hok : build.ok = true) (b : Bool) :
    sym build b = List.replicate (Config.highCells (sym build b)) true
      ++ List.replicate (build.nCell - Config.highCells (sym build b)) false :=
  (patternOk_iff.mp (patternOk_sym hok b)).1

theorem highCells_sym_pos {build : Config} (hok : build.ok = true) (b : Bool) : 0 < Config.highCells (sym build b) :=
  (patternOk_iff.mp (patternOk_sym hok b)).2.1

theorem highCells_sym_lt {build : Config} (hok : build.ok = true) (b : Bool) :
    Config.highCells (sym build b) < build.nCell :=
  (patternOk_iff.mp (patternOk_sym hok b)).2.2

/-- A 0 has the fewest high cells of the two symbols (rule R131 (c)). -/
theorem highCells_pat0_le {build : Config} (hok : build.ok = true) (b : Bool) :
    Config.highCells build.pat0 ≤ Config.highCells (sym build b) := by
  obtain ⟨-, -, -, hlt, -⟩ := config_ok_iff.mp hok
  cases b
  · exact Nat.le_refl _
  · exact hlt.le

/-! ### The cell-domain decoder -/

/-- The patterns differ in their number of high cells, so a symbol is the symbol of one bit only (rule R89). -/
theorem decodeGroup_sym {build : Config} (hok : build.ok = true) (b : Bool) :
    decodeGroup build (sym build b) = some b := by
  obtain ⟨-, -, -, hlt, -⟩ := config_ok_iff.mp hok
  have hne : build.pat1 ≠ build.pat0 := fun heq => hlt.ne' (congrArg Config.highCells heq)
  cases b <;> simp [decodeGroup, sym, hne]

theorem decodeGroups_symbols {build : Config} (hok : build.ok = true) (bits rest : List Bool) :
    decodeGroups build bits.length (bits.flatMap (sym build) ++ rest) = bits.map some := by
  induction bits with
  | nil => rfl
  | cons b bits ih =>
    rw [List.length_cons, decodeGroups, List.flatMap_cons, List.append_assoc, List.take_left' (length_sym hok b),
      List.drop_left' (length_sym hok b), ih, decodeGroup_sym hok, List.map_cons]

@[simp] theorem allBits_map_some (bits : List Bool) : allBits (bits.map some) = some bits := by
  induction bits with
  | nil => rfl
  | cons b bits ih => rw [List.map_cons, allBits, ih, Option.map_some]

/-- The cell-domain decoder gives back the protocol bits of a frame (rule R133). -/
theorem decodeBits_encodeFrame {build : Config} (hok : build.ok = true) (pixels : List RGB) :
    decodeBits build pixels.length (encodeFrame build pixels) = some (pixels.flatMap (pixWord build)) := by
  rw [decodeBits, if_pos (drop_pixelPart hok pixels), encodeFrame_eq, ← length_frameBits hok, decodeGroups_symbols hok,
    allBits_map_some]

/-! ### From protocol bits to pixels -/

/-- `CH_ORDER` leaves out none of the three colour bytes (rules R9, R53). -/
theorem mem_chOrder {build : Config} (hok : build.ok = true) (ch : Channel) : ch ∈ build.chOrder := by
  obtain ⟨-, -, -, -, ⟨hlen, hnodup⟩, -⟩ := config_ok_iff.mp hok
  have hall : ∀ ch : Channel, ch ∈ [Channel.red, .green, .blue] := by
    intro ch
    cases ch <;> decide
  have hperm := (hnodup.subperm fun ch _ => hall ch).perm_of_length_le hlen.ge
  exact hperm.mem_iff.mpr (hall ch)

/-- Among the bytes in wire order each channel finds its own. -/
theorem channelByte_map {chs : List Channel} {want : Channel} (f : Channel → U8) (hmem : want ∈ chs) :
    channelByte chs (chs.map f) want = some (f want) := by
  induction chs with
  | nil => cases hmem
  | cons ch chs ih =>
    rw [List.map_cons, channelByte]
    split
    next heq => rw [heq]
    next hne => exact ih (List.mem_of_ne_of_mem (Ne.symm hne) hmem)

/-- A pixel is read back from its word, since regrouping by eight is the byte view, whatever the wire order (rule R133). -/
theorem pixelOfBits_pixWord {build : Config} (hok : build.ok = true) (c : RGB) :
    pixelOfBits build (pixWord build c) = some c := by
  obtain ⟨-, -, -, -, ⟨hlen, -⟩, -⟩ := config_ok_iff.mp hok
  have hbytes : byteView 3 (pixWord build c) = build.chOrder.map c.channel := by
    rw [pixWord_eq, byteView_flatMap_byteBits (by rw [List.length_map, hlen])]
  simp only [byteView, List.drop_drop] at hbytes
  simp only [pixelOfBits, hbytes, channelByte_map c.channel (mem_chOrder hok _)]
  rfl

theorem pixelsOfBits_frameBits {build : Config} (hok : build.ok = true) (pixels : List RGB) :
    pixelsOfBits build pixels.length (pixels.flatMap (pixWord build)) = some pixels := by
  induction pixels with
  | nil => rfl
  | cons c cs ih =>
    simp only [List.length_cons, pixelsOfBits, List.flatMap_cons, List.take_left' (length_pixWord hok c),
      List.drop_left' (length_pixWord hok c), pixelOfBits_pixWord hok, ih]

/-- The cell-domain decoder gives back the pixels of a frame (rule R133). -/
theorem decodeFrame_encodeFrame {build : Config} (hok : build.ok = true) (pixels : List RGB) :
    decodeFrame build pixels.length (encodeFrame build pixels) = some pixels := by
  rw [decodeFrame, decodeBits_encodeFrame hok]
  exact pixelsOfBits_frameBits hok pixels

/-! ### The time-domain decoder -/

theorem runsFrom_replicate_true (hi k : Nat) (cells : List Bool) :
    runsFrom hi 0 (List.replicate k true ++ cells) = runsFrom (hi + k) 0 cells := by
  induction k generalizing hi with
  | zero => rfl
  | succ k ih => rw [List.replicate_succ, List.cons_append, runsFrom, if_pos rfl, ih, Nat.add_assoc, Nat.add_comm 1]

/-- Before the first high cell a low cell is part of no run. -/
theorem runsFrom_leading_false (k : Nat) : runsFrom 0 0 (List.replicate k false) = [] := by
  induction k with
  | zero => rfl
  | succ k ih => rw [List.replicate_succ, runsFrom, if_pos rfl, ih]

theorem runsFrom_replicate_false {hi : Nat} (hhi : 0 < hi) (lo k : Nat) (cells : List Bool) :
    runsFrom hi lo (List.replicate k false ++ cells) = runsFrom hi (lo + k) cells := by
  induction k generalizing lo with
  | zero => rfl
  | succ k ih =>
    rw [List.replicate_succ, List.cons_append, runsFrom, if_neg hhi.ne', ih, Nat.add_assoc, Nat.add_comm 1]

/-- A high cell after a low one ends the run in progress and begins the next. -/
theorem runsFrom_next_run {hi lo : Nat} (hlo : lo ≠ 0) {cells : List Bool} (hfirst : cells[0]? = some true) :
    runsFrom hi lo cells = (hi, lo) :: runsFrom 0 0 cells := by
  cases cells with
  | nil => cases hfirst
  | cons x xs =>
    obtain rfl : x = true := by simpa using hfirst
    rw [runsFrom, if_neg hlo, runsFrom, if_pos rfl]

/-- A split threshold between the two high times tells the symbols apart (rule R89). -/
theorem split_highCells {build : Config} (hsplit : build.tSplitOk = true) (b : Bool) :
    decide (build.tSplitNum < Config.highCells (sym build b) * build.tSplitDen) = b := by
  rw [Config.tSplitOk, Bool.and_eq_true, decide_eq_true_eq, decide_eq_true_eq] at hsplit
  obtain ⟨hshort, hlong⟩ := hsplit
  cases b
  · exact decide_eq_false hshort.le.not_gt
  · exact decide_eq_true hlong

section TimeDomain

variable {build : Config} (hok : build.ok = true)
include hok

/-- The first symbol of a waveform is the run in progress. -/
theorem runsFrom_sym (b : Bool) (cells : List Bool) : runsFrom 0 0 (sym build b ++ cells) =
    runsFrom (Config.highCells (sym build b)) (build.nCell - Config.highCells (sym build b)) cells := by
  rw [sym_eq_replicate hok b, List.append_assoc, runsFrom_replicate_true, Nat.zero_add, ← sym_eq_replicate hok,
    runsFrom_replicate_false (highCells_sym_pos hok b), Nat.zero_add]

/-- With the symbol of `b` in progress: each symbol that follows ends its run by its first cell, the low run of a symbol
is too short to latch, and the gap belongs to the last run. -/
theorem decodeRuns_after_sym {latch : Nat} (hsplit : build.tSplitOk = true)
    (hlatch : build.nCell - Config.highCells build.pat0 < latch) (b : Bool) (bits : List Bool) :
    decodeRuns build latch (runsFrom (Config.highCells (sym build b)) (build.nCell - Config.highCells (sym build b))
      (bits.flatMap (sym build) ++ gap build)) = b :: bits := by
  have hpos := highCells_sym_pos hok b
  induction bits generalizing b with
  | nil =>
    rw [List.flatMap_nil, List.nil_append, ← List.append_nil (gap build), gap, runsFrom_replicate_false hpos, runsFrom,
      if_neg hpos.ne', decodeRuns, split_highCells hsplit, decodeRuns, ite_self]
  | cons c bits ih =>
    have hlow : build.nCell - Config.highCells (sym build b) ≠ 0 := Nat.sub_ne_zero_of_lt (highCells_sym_lt hok b)
    have hshort : ¬ latch ≤ build.nCell - Config.highCells (sym build b) := by
      have := highCells_pat0_le hok b
      omega
    have hfirst : (sym build c ++ (bits.flatMap (sym build) ++ gap build))[0]? = some true := by
      rw [List.getElem?_append_left (List.getElem?_eq_some_iff.mp (sym_first hok c)).1, sym_first hok]
    rw [List.flatMap_cons, List.append_assoc, runsFrom_next_run hlow hfirst, runsFrom_sym hok, decodeRuns,
      split_highCells hsplit, if_neg hshort, ih c (highCells_sym_pos hok c)]

/-- The time-domain decoder gives back the bits of any symbols with a gap after them (rules R89, R133). -/
theorem decodeRuns_symbols {latch : Nat} (hsplit : build.tSplitOk = true)
    (hlatch : build.nCell - Config.highCells build.pat0 < latch) (bits : List Bool) :
    decodeRuns build latch (runsFrom 0 0 (bits.flatMap (sym build) ++ gap build)) = bits := by
  cases bits with
  | nil =>
    rw [List.flatMap_nil, List.nil_append, gap, runsFrom_leading_false]
    rfl
  | cons b bits =>
    rw [List.flatMap_cons, List.append_assoc, runsFrom_sym hok, decodeRuns_after_sym hok hsplit hlatch]

end TimeDomain

/-! ### The patterns `1000` and `1110` -/

section FourCells

variable {build : Config} (hpat0 : build.pat0 = [true, false, false, false])
  (hpat1 : build.pat1 = [true, true, true, false])
include hpat0 hpat1

/-- Both patterns are 1, the bit, the bit, 0 (rule R128). -/
theorem sym_eq_of_patterns (b : Bool) : sym build b = [true, b, b, false] := by
  cases b
  · exact hpat0
  · exact hpat1

/-- A 0 has one high cell, a 1 has three (rule R128). -/
theorem count_true_symbols (bits : List Bool) :
    (bits.flatMap (sym build)).count true = bits.length + 2 * bits.count true := by
  induction bits with
  | nil => rfl
  | cons b bits ih =>
    rw [List.flatMap_cons, List.count_append, ih, sym_eq_of_patterns hpat0 hpat1, List.length_cons]
    cases b <;> simp <;> omega

/-- Cell `r` of symbol `k` of a frame (rule R128). -/
theorem encodeFrame_symbol_cell {pixels : List RGB} {k r : Nat} {b : Bool}
    (hbit : (pixels.flatMap (pixWord build))[k]? = some b) (hr : r < 4) :
    (encodeFrame build pixels)[4 * k + r]? = [true, b, b, false][r]? := by
  have hlen : ∀ b, (sym build b).length = 4 := fun b => by rw [sym_eq_of_patterns hpat0 hpat1]; rfl
  have hcell := getElem?_flatMap_const hlen hbit hr
  rw [sym_eq_of_patterns hpat0 hpat1] at hcell
  have hsome := hcell.trans (List.getElem?_eq_getElem hr)
  rw [encodeFrame_eq, List.getElem?_append_left (List.getElem?_eq_some_iff.mp hsome).1, hcell]

/-- A cell of the pixel part by its place in its symbol (rule R128). -/
theorem encodeFrame_cell_mod4 (hok : build.ok = true) {pixels : List RGB} {i : Nat} (hi : i < 96 * pixels.length) :
    (i % 4 = 0 → (encodeFrame build pixels)[i]? = some true)
      ∧ (i % 4 = 3 → (encodeFrame build pixels)[i]? = some false)
      ∧ (i % 4 = 1 ∨ i % 4 = 2 →
          (encodeFrame build pixels)[i]? = (pixels.flatMap (pixWord build))[i / 4]?) := by
  have hbit : (pixels.flatMap (pixWord build))[i / 4]? = some _ :=
    List.getElem?_eq_getElem (by rw [length_frameBits hok]; omega)
  have hcell := encodeFrame_symbol_cell hpat0 hpat1 hbit (Nat.mod_lt i (by decide))
  rw [Nat.div_add_mod] at hcell
  rw [hcell, hbit]
  refine ⟨fun h => by rw [h]; rfl, fun h => by rw [h]; rfl, ?_⟩
  rintro (h | h) <;> rw [h] <;> rfl

/-- No cell at the last place of a symbol is high, in the pixel part or after it (rule R128). -/
theorem encodeFrame_last_place (hok : build.ok = true) (hcells : build.nCell = 4) (pixels : List RGB) {i : Nat}
    (hi : i % 4 = 3) : (encodeFrame build pixels)[i]? ≠ some true := by
  by_cases hpix : i < 96 * pixels.length
  · obtain ⟨-, hlast, -⟩ := encodeFrame_cell_mod4 hpat0 hpat1 hok hpix
    simp [hlast hi]
  · have hgap := congrArg (·[i - 96 * pixels.length]?) (drop_pixelPart hok pixels)
    simp only [List.getElem?_drop, hcells, gap] at hgap
    rw [show pixels.length * 24 * 4 + (i - 96 * pixels.length) = i by omega, List.getElem?_replicate] at hgap
    rw [hgap]
    split <;> simp

/-- Four cells in a row hold one at the last place of a symbol, so they are not all high (rule R128). -/
theorem not_four_high (hok : build.ok = true) (hcells : build.nCell = 4) (pixels : List RGB) (i : Nat) :
    ¬ ∀ j, j < 4 → (encodeFrame build pixels)[i + j]? = some true := by
  intro hhigh
  exact encodeFrame_last_place hpat0 hpat1 hok hcells pixels (i := i + (3 - i % 4)) (by omega) (hhigh _ (by omega))

/-- Four cells in a row of the pixel part hold one at the first place of a symbol, so they are not all low (rule R128). -/
theorem not_four_low (hok : build.ok = true) {pixels : List RGB} {i : Nat} (hi : i + 3 < 96 * pixels.length) :
    ¬ ∀ j, j < 4 → (encodeFrame build pixels)[i + j]? = some false := by
  intro hlow
  have hcell := hlow ((4 - i % 4) % 4) (by omega)
  have hpix : i + (4 - i % 4) % 4 < 96 * pixels.length := by omega
  obtain ⟨hfirst, -, -⟩ := encodeFrame_cell_mod4 hpat0 hpat1 hok hpix
  rw [hfirst (by omega)] at hcell
  cases hcell

/-- The number of high cells of a frame (rule R128). -/
theorem count_true_encodeFrame (hok : build.ok = true) (pixels : List RGB) :
    (encodeFrame build pixels).count true
      = 24 * pixels.length + 2 * (pixels.flatMap (pixWord build)).count true := by
  have hgap : (gap build).count true = 0 := by simp [gap, List.count_replicate]
  rw [encodeFrame_eq, List.count_append, count_true_symbols hpat0 hpat1, length_frameBits hok, hgap, Nat.add_zero,
    Nat.mul_comm 24]

end FourCells

end Sys2Proof.Machine

/-! ### The obligations -/

section
open Sys2Proof Sys2Proof.Machine

/-- Settles O15: by induction on the pixels and their protocol bits, group by group and run by run. -/
theorem encodedFrameDecodesToItsPixels : Obligations.EncodedFrameDecodesToItsPixels := by
  intro build pixels hok
  refine ⟨decodeBits_encodeFrame hok pixels, decodeFrame_encodeFrame hok pixels, fun latch hsplit hlatch _ => ?_⟩
  rw [encodeFrame_eq, decodeRuns_symbols hok hsplit hlatch]

/-- Settles O14: cell `i` stands at place `i mod 4` of the symbol of bit `i / 4`, and after the symbols is the gap. -/
theorem frameHasTheShapeOfItsPatterns : Obligations.FrameHasTheShapeOfItsPatterns := by
  intro build pixels hok hcells hpat0 hpat1 hlen frame bits
  rw [← hlen]
  refine ⟨?_, encodeFrame_first hok, ?_, fun i hi => encodeFrame_cell_mod4 hpat0 hpat1 hok hi,
    count_true_encodeFrame hpat0 hpat1 hok pixels, not_four_high hpat0 hpat1 hok hcells pixels,
    fun i hi => not_four_low hpat0 hpat1 hok hi⟩
  · rw [length_encodeFrame hok, hlen]
    rfl
  · rw [show 96 * pixels.length = pixels.length * 24 * build.nCell by rw [hcells]; omega]
    exact drop_pixelPart hok pixels

end
end

section
/-! PROOFS. The Bus Transport, one case of TRANSMIT at a time: the rejection on entry, the cell, the completion and its
atomic form, and the transfer that never completes (rules R143 to R148, R150). -/

namespace Sys2Proof.Machine

/-! ### One step of TRANSMIT -/

/-- On entry, a bus that rejects: TRANSMIT raises TransportError (rules R143, R144). -/
theorem execTransmit_rejected {s : State} (hentry : s.env.granted = false) (hidx : s.core.regs.txidx = 0)
    (hreject : s.env.pins.busReject = true) :
    execTransmit s = .next { s with core := raise .transportError s.core } := by
  rw [execTransmit_eq, if_pos ((turnedAway_iff s.env s.core).mpr ⟨hidx, hentry, hreject⟩), run_next]

/-- Cells left and a pulse: the transfer drives the cell at TXIDX (rule R145). -/
theorem transferStep_of_pulse (build : Config) {e : Env} {c : CoreState} {x : Bool}
    (hidx : c.regs.txidx < build.frameCells) (hpulse : e.pins.cellEn = true)
    (hx : c.regs.framebuf.readCell c.regs.txidx = some x) : transferStep build e c = .next (driveCell x c) := by
  simp [transferStep, hidx, cellPulse, hpulse, hx]

/-- No cell left: the transfer completes, with a pulse or without one (rule R146). -/
theorem transferStep_of_allDriven {build : Config} (e : Env) {c : CoreState}
    (hidx : c.regs.txidx = build.frameCells) : transferStep build e c = completeTransfer build c := by
  simp [transferStep, hidx]

/-- The completion of a transfer whose frame can be read whole (rule R146). -/
theorem completeTransfer_of_read {build : Config} {c : CoreState} {cells : List Bool}
    (hbuf : c.regs.framebuf.read 0 build.frameCells = some cells) :
    completeTransfer build c = .next { c with
      regs.line := false
      regs.txidx := 0
      regs.txerr := false
      regs.phase := .advance
      trace := c.trace ++ [.frameSent cells c.regs.tstart] } := by
  rw [completeTransfer, hbuf]
  rfl

/-- Where the buffer holds a frame, the atomic transfer records it as sent (rules R146, R150; log 12). -/
theorem exec_txerrOk_of_read {s : State} {cells : List Bool}
    (hbuf : s.core.regs.framebuf.read 0 s.build.frameCells = some cells) :
    exec .txerrOk s = .next { s with
      core.regs.line := false
      core.regs.txidx := 0
      core.regs.txerr := false
      core.regs.phase := .advance
      core.trace := s.core.trace ++ [.frameSent cells s.core.regs.tstart] } :=
  calc exec .txerrOk s = s.run (completeTransfer s.build s.core) := rfl
    _ = _ := by rw [completeTransfer_of_read hbuf, run_next]

/-- With all cells driven, TRANSMIT is the atomic transfer (rules R146, R150; log 12). -/
theorem exec_transmit_of_allDriven {s : State}
    (haccepted : s.env.granted = true ∨ 0 < s.core.regs.txidx ∨ s.env.pins.busReject = false)
    (hidx : s.core.regs.txidx = s.build.frameCells) : exec .transmit s = exec .txerrOk s :=
  calc exec .transmit s = s.run (transferStep s.build s.env s.core) := execTransmit_accepted haccepted
    _ = s.run (completeTransfer s.build s.core) := by rw [transferStep_of_allDriven s.env hidx]

/-! ### The line at the end of a transfer -/

/-- The last cell of a frame is a cell of its gap (rules R75, R128). -/
theorem encodeFrame_last {build : Config} (hb : buildRefusal build = none) (hgap : 0 < build.resetCells) (x : RGB) :
    (encodeFrame build [x])[build.frameCells - 1]? = some false := by
  obtain ⟨hok, hnpix⟩ := buildRefusal_eq_none.mp hb
  have hlast : build.frameCells - 1 = 24 * build.nCell * [x].length + (build.resetCells - 1) := by
    rw [Config.frameCells, hnpix, Nat.one_mul, List.length_singleton, Nat.mul_one]
    omega
  rw [hlast, encodeFrame_gap hok [x] (by omega)]

/-- With all cells driven the line shows the last cell of the frame, which is low (rules R128, R145, R146). -/
theorem line_low_of_allDriven {s : State} (hinv : MachineInv s) (hp : s.core.regs.phase = .transmit)
    (hidx : s.core.regs.txidx = s.build.frameCells) (hgap : 0 < s.build.resetCells) :
    s.core.regs.line = false := by
  obtain ⟨hb, -, ⟨-, -, hdriven, -⟩, -, ⟨-, hframe⟩, -⟩ := hinv
  have hpos : 0 < s.build.frameCells := Nat.add_pos_right _ hgap
  obtain ⟨-, hline⟩ := hdriven (hidx ▸ hpos)
  obtain ⟨-, hcells⟩ := read_eq_some.mp (hframe hp)
  have hcell := hcells (s.build.frameCells - 1) (Nat.sub_one_lt_of_lt hpos)
  rw [Nat.zero_add, ← hidx, hline, hidx, encodeFrame_last hb hgap] at hcell
  exact Option.some.inj hcell

/-! ### A transfer without pulses -/

/-- An accepted transfer with a cell left and no pulse takes a step that changes no register and no event, and stays
accepted (rules R43, R148). -/
theorem step_stalls {s : State} (hb : buildRefusal s.build = none) (hr : s.env.pins.rst = false)
    (hp : s.core.regs.phase = .transmit)
    (haccepted : s.env.granted = true ∨ 0 < s.core.regs.txidx ∨ s.env.pins.busReject = false)
    (hidx : s.core.regs.txidx < s.build.frameCells) (hpulse : s.env.pins.cellEn = false) :
    ∃ t, step s = .next t ∧ t.core.regs = s.core.regs ∧ t.core.trace = s.core.trace ∧ t.build = s.build
      ∧ t.env = s.env.turn .transmit .transmit := by
  have hwaits := transmitWaitsWithoutAPulse ⟨s.build, strobesLow s.core, s.env⟩ haccepted hidx hpulse
  have hcore : coreStep s.build s.env s.core = .next { strobesLow s.core with regs.phase := .transmit } := by
    rw [coreStep_eq s.core hb hr, hp]
    exact congrArg coreOutcome hwaits
  exact ⟨_, step_of_core hcore, regs_phase_self s.core.regs hp, rfl, rfl, by rw [hp]⟩

/-- By induction on the steps: each leaves an accepted transfer with as many cells left (rule R148). -/
theorem transfer_stalls (n : Nat) {s : State} (hb : buildRefusal s.build = none)
    (hp : s.core.regs.phase = .transmit)
    (haccepted : s.env.granted = true ∨ 0 < s.core.regs.txidx ∨ s.env.pins.busReject = false)
    (hidx : s.core.regs.txidx < s.build.frameCells) (hreset : NoReset s n)
    (hpulse : ∀ j, j < n → (pinsAt s j).cellEn = false) :
    ∃ t, runSteps n s = .next t ∧ t.core.regs = s.core.regs ∧ t.core.trace = s.core.trace := by
  induction n generalizing s with
  | zero => exact ⟨s, rfl, rfl, rfl⟩
  | succ n ih =>
    obtain ⟨u, hu, hregs, htrace, hbuild, henv⟩ := step_stalls hb hreset.first hp haccepted hidx
      (by simpa using hpulse 0 n.succ_pos)
    have hpulse' : ∀ j, j < n → (pinsAt u j).cellEn = false := by
      intro j hj
      rw [pinsAt_turn henv]
      exact hpulse (j + 1) (Nat.succ_lt_succ hj)
    obtain ⟨t, hrun, hregs', htrace'⟩ := ih (s := u) (by rwa [hbuild]) (by rwa [hregs])
      (.inl (by simp [henv])) (by rwa [hregs, hbuild]) (noReset_turn henv hreset) hpulse'
    exact ⟨t, by rwa [runSteps_succ n hu], hregs'.trans hregs, htrace'.trans htrace⟩

end Sys2Proof.Machine

/-! ### The obligations -/

section
open Sys2Proof Sys2Proof.Machine

/-- Settles O25: TRANSMIT is then the atomic transfer, and the line shows the last cell of the gap. -/
theorem completedTransferIsRecorded : Obligations.CompletedTransferIsRecorded := by
  intro s cells haccepted hidx hbuf
  refine ⟨?_, fun hinv hp hgap => line_low_of_allDriven hinv hp hidx hgap⟩
  rw [exec_transmit_of_allDriven haccepted hidx, exec_txerrOk_of_read hbuf]

/-- Settles O49: by induction on the number of steps. -/
theorem transferWithoutPulsesStalls : Obligations.TransferWithoutPulsesStalls :=
  fun n _ hb hp haccepted hidx hreset hpulse => transfer_stalls n hb hp haccepted hidx hreset hpulse

/-- Settles O22: TRANSMIT raises TransportError, whose effect is the three fields. -/
theorem rejectedTransferDrivesNothing : Obligations.RejectedTransferDrivesNothing :=
  fun _ hentry hidx hreject => execTransmit_rejected hentry hidx hreject

/-- Settles O23: an accepted TRANSMIT is a step of the transfer, and that drives the cell at TXIDX. -/
theorem cellPulseDrivesTheNextCell : Obligations.CellPulseDrivesTheNextCell := by
  intro s c haccepted hidx hpulse hc
  calc exec .transmit s = s.run (transferStep s.build s.env s.core) := execTransmit_accepted haccepted
    _ = .next { s with core := driveCell c s.core } := by
      rw [transferStep_of_pulse s.build hidx hpulse hc, run_next]

/-- Settles O35: the completion of a frame that can be read, and TRANSMIT once no cell is left. -/
theorem txerrOkIsTheAtomicTransfer : Obligations.TxerrOkIsTheAtomicTransfer :=
  ⟨fun _ _ hbuf => exec_txerrOk_of_read hbuf, fun _ haccepted hidx => exec_transmit_of_allDriven haccepted hidx⟩

end
end

section
/-! PROOFS. The Frame Scheduler: the operations of one frame, the hue of each frame and its period, HALT, and the time
from one frame to the next (rules R40, R162 to R172). -/

namespace Sys2Proof.Machine

/-! ### INIT and PACE, by the answer they read -/

theorem execInit_of_pending {s : State} (hdone : s.env.pins.busInitDone = false) :
    execInit s = .next { s with core.regs.phase := .init } := by
  simp [execInit, (busInitVerdict_pending s.env).mpr hdone]

theorem execInit_of_ok {s : State} (hdone : s.env.pins.busInitDone = true) (hok : s.env.pins.busInitOk = true) :
    execInit s = .next { s with core.regs.phase := .capture } := by
  simp [execInit, (busInitVerdict_ok s.env).mpr ⟨hdone, hok⟩]

theorem execInit_of_fail {s : State} (hdone : s.env.pins.busInitDone = true) (hok : s.env.pins.busInitOk = false) :
    execInit s = .next { s with core := raise .initFailure s.core } := by
  simp [execInit, (busInitVerdict_fail s.env).mpr ⟨hdone, hok⟩]

theorem execPace_eq (s : State) : execPace s = .next { s with
    core.regs.phase := if periodReached s.build s.env.pins.now s.core.regs.tstart then .capture else .pace } := rfl

/-- The elapsed time is the difference modulo `2^64`, whether or not the clock has wrapped (rule R168). -/
theorem elapsed_eq_mod (n tstart : Stamp) : elapsed n tstart = (n.toNat + 2 ^ 64 - tstart.toNat) % 2 ^ 64 := by
  have hstart := tstart.isLt
  rw [elapsed, BitVec.toNat_sub]
  omega

/-! ### ENCODE -/

/-- A frame laid over the whole buffer: its cells, and past its end what was there (rules R51, R165). -/
theorem readCell_write_frame {build : Config} (hb : buildRefusal build = none) (m : Memory) (x : RGB) (k : Nat) :
    (m.write 0 (encodeFrame build [x])).readCell k =
      if k < build.frameCells then (encodeFrame build [x])[k]? else m.readCell k := by
  rw [readCell_write, length_encodeFrame_single hb]
  simp

/-- Every cell index of the frame has its cell in the encoded frame (rules R75, R128). -/
theorem exists_cell_of_lt {build : Config} (hb : buildRefusal build = none) (x : RGB) {k : Nat}
    (hk : k < build.frameCells) : ∃ c, (encodeFrame build [x])[k]? = some c :=
  ⟨_, List.getElem?_eq_getElem (by rwa [length_encodeFrame_single hb])⟩

/-! ### The hue of a frame -/

theorem toNat_hueOfFrame (build : Config) (k : Nat) :
    (hueOfFrame build k).toNat = (build.hueInit.toNat + k * build.hueStep.toNat) % 256 := by
  rw [hueOfFrame, BitVec.toNat_ofNat]

/-- The default build starts at hue 0 and moves on by 2 (rules R9, R170). -/
theorem hueOfFrame_default (k : Nat) : hueOfFrame Config.default k = BitVec.ofNat 8 (2 * k) := by
  simp [hueOfFrame, Config.default, Nat.mul_comm]

/-- A reset leads to the hue of frame 0 from anywhere (rules R45, R220). -/
theorem hueInv_step_reset {s t : State} (hr : s.env.pins.rst = true) (h : step s = .next t) : HueInv t := by
  obtain ⟨-, -, -, -, -, hhue⟩ := machineInv_step_reset hr h
  exact hhue

/-- At CONVERT the hue is that of the frame after those done (rule R170). -/
theorem HueInv.hue_of_convert {s : State} (h : HueInv s) (hp : s.core.regs.phase = .convert) :
    s.core.regs.hue = hueOfFrame s.build (framesDone s.core.trace) :=
  ((hueInv_of_ne_advance (by simp [hp])).mp h).1

/-- The frames whose hue comes again after `m` more: those `m` steps of the hue go round whole times (rule R171). -/
theorem hueOfFrame_add_eq_iff (build : Config) (k m : Nat) :
    hueOfFrame build (k + m) = hueOfFrame build k ↔ 256 / Nat.gcd build.hueStep.toNat 256 ∣ m := by
  calc hueOfFrame build (k + m) = hueOfFrame build k
      ↔ 256 ∣ build.hueStep.toNat * m := by
        rw [← BitVec.toNat_inj, toNat_hueOfFrame, toNat_hueOfFrame, Nat.add_mul, Nat.mul_comm build.hueStep.toNat]
        omega
    _ ↔ 256 ∣ Nat.gcd 256 build.hueStep.toNat * m := Nat.dvd_gcd_mul_iff_dvd_mul.symm
    _ ↔ 256 / Nat.gcd build.hueStep.toNat 256 ∣ m := by
        rw [Nat.gcd_comm]
        exact (Nat.div_dvd_iff_dvd_mul (Nat.gcd_dvd_right _ _) (Nat.gcd_pos_of_pos_right _ (by decide))).symm

/-! ### HALT -/

/-- HALT stays as it is (rule R169). -/
theorem step_halt {s t : State} (h : step s = .next t) (hr : s.env.pins.rst = false) (hp : s.core.regs.phase = .halt) :
    t.core.regs = s.core.regs ∧ t.core.trace = s.core.trace := by
  obtain ⟨u, hu, hcore⟩ := step_exec h hr
  rw [hp] at hu
  cases hu
  rw [← hcore]
  exact ⟨regs_phase_self s.core.regs hp, rfl⟩

/-- The one operation that enters HALT is INIT, on a failed verdict (rules R162, R169). -/
theorem Did.failed_of_enters_halt {build : Config} {e : Env} {c d : CoreState} (did : Did build e c d)
    (hd : d.regs.phase = .halt) (hc : c.regs.phase ≠ .halt) :
    c.regs.phase = .init ∧ e.pins.busInitDone = true ∧ e.pins.busInitOk = false := by
  cases did with
  | initFails phase done verdict => exact ⟨phase, done, verdict⟩
  | initWaits _ _ regs | stalled _ _ _ _ regs | paceWaits _ _ regs | halted _ regs =>
    rw [regs] at hd
    exact absurd hd hc
  | initStarts _ _ _ regs | captured _ regs | converted _ _ _ regs | encoded _ regs | rejected _ _ _ _ regs
  | completed _ _ _ _ regs | advanced _ regs | paceOver _ _ regs =>
    simp [regs] at hd
  | drove phase _ _ _ _ _ regs => simp [regs, phase] at hd

/-- What stands in HALT: the fault, a low line, the first hue and no frame (rules R27, R29, R30, R169). -/
theorem outputs_of_halt {s : State} (hinv : MachineInv s) (hp : s.core.regs.phase = .halt) :
    s.core.regs.fatal = true ∧ s.core.regs.faultCode = .initFailure ∧ s.core.regs.line = false
      ∧ s.core.regs.hue = s.build.hueInit ∧ framesDone s.core.trace = 0 := by
  obtain ⟨-, ⟨hhalt, hcode⟩, htransport, -, -, hhue⟩ := hinv
  obtain ⟨-, -, hline⟩ := (transportInv_idle (by simp [hp])).mp htransport
  obtain ⟨hhue, hnone⟩ := (hueInv_of_ne_advance (by simp [hp])).mp hhue
  have hfatal := hhalt.mp hp
  have hframes := hnone (.inr hp)
  exact ⟨hfatal, hcode.mp hfatal, hline, by rw [hhue, hframes, hueOfFrame_zero], hframes⟩

/-! ### From one frame to the next -/

@[simp] theorem frameStamps_diag (hue : U8) : frameStamps [.diag hue] = [] := rfl
@[simp] theorem frameStamps_fatal (code : FaultCode) : frameStamps [.fatal code] = [] := rfl

section Period

variable {s t : State}

/-- The end of a frame adds its timestamp, a period after those before it (rule R172). -/
theorem periodInv_frameEnds {ev : Event} (hphase : s.core.regs.phase = .transmit)
    (hphase' : t.core.regs.phase = .advance) (htstart : t.core.regs.tstart = s.core.regs.tstart)
    (hbuild : t.build = s.build) (henv : t.env = s.env.turn s.core.regs.phase t.core.regs.phase)
    (htrace : t.core.trace = s.core.trace ++ [ev]) (hev : frameStamps [ev] = [s.core.regs.tstart.toNat])
    (h : PeriodInv s) : PeriodInv t := by
  obtain ⟨hmono, hapart, hshape⟩ := h
  obtain ⟨hmono', hnow⟩ := clockMonotone_turn hmono henv
  simp only [hphase] at hshape
  obtain ⟨hbefore, hstart⟩ := hshape
  have hstamps : frameStamps t.core.trace = frameStamps s.core.trace ++ [s.core.regs.tstart.toNat] := by
    rw [htrace, frameStamps_append, hev]
  refine ⟨hmono', ?_, ?_⟩
  · rw [hstamps, hbuild, List.pairwise_append]
    exact ⟨hapart, List.pairwise_singleton _ _, by simpa using hbefore⟩
  · simp only [hphase', hstamps, htstart, List.mem_append, List.mem_singleton]
    refine ⟨?_, hstart.trans hnow⟩
    rintro a (ha | rfl)
    · exact (Nat.le_add_right _ _).trans (hbefore a ha)
    · exact Nat.le_refl _

/-- Every operation keeps the frames a period apart: CAPTURE reads a clock that PACE has seen a period after the last
frame. -/
theorem periodInv_step (did : Did s.build s.env s.core t.core) (hbuild : t.build = s.build)
    (henv : t.env = s.env.turn s.core.regs.phase t.core.regs.phase) (h : PeriodInv s) : PeriodInv t := by
  obtain ⟨hmono, hapart, hshape⟩ := h
  obtain ⟨hmono', hnow⟩ := clockMonotone_turn hmono henv
  cases did with
  | rejected phase _ _ _ regs trace | completed phase _ _ _ regs trace =>
    exact periodInv_frameEnds phase (by rw [regs]) (by rw [regs]) hbuild henv trace rfl ⟨hmono, hapart, hshape⟩
  | initWaits phase _ regs trace | initStarts phase _ _ regs trace | initFails phase _ _ regs trace
  | halted phase regs trace =>
    simp only [phase] at hshape
    have hstamps : frameStamps t.core.trace = [] := by simp [trace, frameStamps_append, hshape]
    exact ⟨hmono', by simp [hstamps], by simp [regs, phase, hstamps]⟩
  | captured phase regs trace =>
    simp only [phase] at hshape
    refine ⟨hmono', by rwa [trace, hbuild], ?_⟩
    simp only [regs, trace, hbuild]
    exact ⟨hshape, hnow⟩
  | converted phase _ _ regs trace | encoded phase regs trace | drove phase _ _ _ _ _ regs trace
  | stalled phase _ _ _ regs trace | advanced phase regs trace | paceWaits phase _ regs trace =>
    simp only [phase] at hshape
    obtain ⟨hbefore, hstart⟩ := hshape
    have hstamps : frameStamps t.core.trace = frameStamps s.core.trace := by
      simp [trace, apply_ite frameStamps, frameStamps_append]
    refine ⟨hmono', by rwa [hstamps, hbuild], ?_⟩
    simp only [regs, phase, hstamps, hbuild]
    exact ⟨hbefore, hstart.trans hnow⟩
  | paceOver phase period regs trace =>
    simp only [phase] at hshape
    obtain ⟨hbefore, hstart⟩ := hshape
    have hperiod := ((periodReached_of_le s.build hstart).mp period).trans hnow
    refine ⟨hmono', by rwa [trace, hbuild], ?_⟩
    simp only [regs, trace, hbuild]
    exact fun a ha => (Nat.add_le_add_right (hbefore a ha) _).trans hperiod

/-- A reset leaves no frame behind (rules R45, R222). -/
theorem periodInv_step_reset (hr : s.env.pins.rst = true) (h : step s = .next t) (hmono : ClockMonotone s) :
    PeriodInv t := by
  obtain ⟨-, hcore, -, henv⟩ := step_reset h hr
  exact ⟨(clockMonotone_turn hmono henv).1, by simp [hcore], by simp [hcore]⟩

/-- PACE goes on to CAPTURE on a read that shows the period elapsed (rule R168). -/
theorem reached_of_pace_to_capture (h : step s = .next t) (hr : s.env.pins.rst = false)
    (hp : s.core.regs.phase = .pace) (hp' : t.core.regs.phase = .capture) :
    periodReached s.build s.env.pins.now s.core.regs.tstart = true := by
  obtain ⟨u, hu, hcore⟩ := step_exec h hr
  rw [hp] at hu
  cases hu
  rw [← hcore] at hp'
  by_contra hwaits
  cases (if_neg hwaits).symm.trans hp'

theorem tstart_of_capture (h : step s = .next t) (hr : s.env.pins.rst = false)
    (hp : s.core.regs.phase = .capture) : t.core.regs.tstart = s.env.pins.now := by
  obtain ⟨u, hu, hcore⟩ := step_exec h hr
  rw [hp] at hu
  cases hu
  rw [← hcore]
  rfl

end Period

end Sys2Proof.Machine

/-! ### The obligations -/

section
open Sys2Proof Sys2Proof.Machine

/-- Settles O55: a reset leads to frame 0 and each operation keeps the hue of its frame, which CONVERT draws. -/
theorem everyStepKeepsTheHueOfItsFrame : Obligations.EveryStepKeepsTheHueOfItsFrame := by
  refine ⟨fun s t hhue h => ?_, fun s hhue hp => ?_, fun s hhue hp hdefault => ?_⟩
  · cases hr : s.env.pins.rst with
    | true => exact hueInv_step_reset hr h
    | false =>
      obtain ⟨-, did, hbuild, -⟩ := step_did h hr
      exact hueInv_step did hbuild hhue
  · rw [hhue.hue_of_convert hp, toNat_hueOfFrame]
  · have hframe := hhue.hue_of_convert hp
    rw [hdefault, hueOfFrame_default] at hframe
    refine ⟨by rw [hframe, BitVec.toNat_ofNat], _, rfl, ?_⟩
    rw [hdefault, hframe, finishConvert_regs, rgb_of_colour]
    rfl

/-- Settles O58: a frame is captured a period after the one before it, since PACE waits for that read of the clock. -/
theorem everyStepKeepsFramesAPeriodApart : Obligations.EveryStepKeepsFramesAPeriodApart := by
  refine ⟨fun s t hperiod h => ?_, fun s t u hst hr hp hp' htu hr' hmono hstart => ?_⟩
  · cases hr : s.env.pins.rst with
    | true => exact periodInv_step_reset hr h hperiod.1
    | false =>
      obtain ⟨-, did, hbuild, henv⟩ := step_did h hr
      exact periodInv_step did hbuild henv hperiod
  · obtain ⟨-, -, -, henv⟩ := step_did hst hr
    have hreached := (periodReached_of_le s.build hstart).mp (reached_of_pace_to_capture hst hr hp hp')
    calc s.core.regs.tstart.toNat + s.build.framePeriodTicks
        ≤ s.env.pins.now.toNat := hreached
      _ ≤ t.env.pins.now.toNat := (clockMonotone_turn hmono henv).2
      _ = u.core.regs.tstart.toNat := by rw [tstart_of_capture htu hr' hp']

/-- Settles O21: the write covers the frame and no cell past it. -/
theorem encodeFillsTheFrameBuffer : Obligations.EncodeFillsTheFrameBuffer := by
  intro s hb
  have hcell := readCell_write_frame hb s.core.regs.framebuf s.core.regs.rgb
  have hread := read_write_all s.core.regs.framebuf (encodeFrame s.build [s.core.regs.rgb])
  rw [length_encodeFrame_single hb] at hread
  refine ⟨_, rfl, fun k hk => ?_, fun k hk => ?_, hread, fun hwf => wf_write hwf 0 _, rfl⟩
  · obtain ⟨c, hc⟩ := exists_cell_of_lt hb s.core.regs.rgb hk
    exact ⟨c, hc, by rw [hcell, if_pos hk, hc]⟩
  · rw [hcell, if_neg (Nat.not_lt.mpr hk)]

/-- Settles O28: the inversion of a step, read for HALT before and after, and the invariant read in HALT. -/
theorem haltIsLeftByResetOnly : Obligations.HaltIsLeftByResetOnly := by
  refine ⟨fun _ => rfl, fun s t h hp hr => ?_, fun s t h hp' hp => ?_, fun s hinv hp => ?_⟩
  · exact step_halt h hr hp
  · cases hr : s.env.pins.rst with
    | true =>
      obtain ⟨-, hcore, -⟩ := step_reset h hr
      simp [hcore] at hp'
    | false =>
      obtain ⟨-, did, -⟩ := step_did h hr
      obtain ⟨hinit, hdone, hfail⟩ := did.failed_of_enters_halt hp' hp
      exact ⟨hinit, hdone, hfail, rfl⟩
  · obtain ⟨hfatal, hcode, hrest⟩ := outputs_of_halt hinv hp
    exact ⟨hfatal, by rw [hcode]; rfl, hrest⟩

/-- Settles O56: the hue comes again exactly after the multiples of the period. -/
theorem hueSequenceHasItsPeriod : Obligations.HueSequenceHasItsPeriod := by
  refine ⟨fun build k => ?_, fun build m hm hrepeats => ?_, by decide, fun k => ?_⟩
  · exact (hueOfFrame_add_eq_iff build k _).mpr (Nat.dvd_refl _)
  · exact Nat.le_of_dvd hm ((hueOfFrame_add_eq_iff build 0 m).mp (hrepeats 0))
  · rw [hueOfFrame_default, BitVec.toNat_ofNat]

/-- Settles O18: one clause for each verdict. -/
theorem initFollowsTheVerdict : Obligations.InitFollowsTheVerdict :=
  fun _ => ⟨execInit_of_pending, execInit_of_ok, execInit_of_fail⟩

/-- Settles O19: CAPTURE polls the clock and nothing else. -/
theorem captureLatchesTheClock : Obligations.CaptureLatchesTheClock :=
  fun _ => rfl

/-- Settles O20: CONVERT finishes with the colour of the hue, which is grey without saturation. -/
theorem convertWritesTheColourOfTheHue : Obligations.ConvertWritesTheColourOfTheHue := by
  intro s
  refine ⟨?_, fun hsat => hsat ▸ convert_of_sat_zero s.core.regs.hue s.build.val⟩
  calc exec .convert s
      = s.run (.next (finishConvert s.build (convert s.core.regs.hue s.build.sat s.build.val) s.core)) := rfl
    _ = _ := by rw [finishConvert_eq, run_next]

/-- Settles O26: the sum of two bytes is their sum modulo 256. -/
theorem advanceAddsTheHueStep : Obligations.AdvanceAddsTheHueStep :=
  fun s => ⟨s.core.regs.hue + s.build.hueStep, BitVec.toNat_add _ _, rfl⟩

/-- Settles O27: the core's comparison is the one with the difference modulo `2^64`. -/
theorem paceComparesTheElapsedTime : Obligations.PaceComparesTheElapsedTime := by
  intro s elapsed
  have hreached :
      periodReached s.build s.env.pins.now s.core.regs.tstart = true ↔ s.build.framePeriodTicks ≤ elapsed := by
    rw [periodReached_iff, elapsed_eq_mod]
  refine ⟨fun hover => (execPace_eq s).trans ?_, fun hwait => (execPace_eq s).trans ?_⟩
  · rw [if_pos (hreached.mpr hover)]
  · rw [if_neg (mt hreached.mp (Nat.not_le.mpr hwait))]

end
end

section
/-! PROOFS. The exceptions: what raises and what clears FATAL and TXERR, the steps that wait, the inputs a step does not
poll, the step of a reset, and that every step completes from the invariant (rules R190 to R197, R220). -/

namespace Sys2Proof.Machine

/-! ### The flags of the two failures -/

/-- FATAL is set by INIT on a failed verdict, and no other operation changes it (rules R29, R191). -/
theorem Did.initFailed_or_fatal_eq {build : Config} {e : Env} {c d : CoreState} (did : Did build e c d) :
    (c.regs.phase = .init ∧ e.pins.busInitDone = true ∧ e.pins.busInitOk = false
        ∧ d.regs = { c.regs with fatal := true, faultCode := .initFailure, phase := .halt })
      ∨ d.regs.fatal = c.regs.fatal := by
  cases did with
  | initFails phase done verdict regs => exact .inl ⟨phase, done, verdict, regs⟩
  | initWaits _ _ regs | initStarts _ _ _ regs | captured _ regs | converted _ _ _ regs | encoded _ regs
  | rejected _ _ _ _ regs | drove _ _ _ _ _ _ regs | stalled _ _ _ _ regs | completed _ _ _ _ regs | advanced _ regs
  | paceOver _ _ regs | paceWaits _ _ regs | halted _ regs =>
    exact .inr (by rw [regs])

/-- TXERR is set by TRANSMIT on a rejection and by no other operation (rules R28, R192). -/
theorem Did.rejected_of_sets_txerr {build : Config} {e : Env} {c d : CoreState} (did : Did build e c d)
    (hd : d.regs.txerr = true) (hc : c.regs.txerr = false) :
    c.regs.phase = .transmit ∧ e.pins.busReject = true
      ∧ d.regs = { c.regs with txerr := true, phase := .advance } := by
  cases did with
  | rejected phase _ _ reject regs => exact ⟨phase, reject, regs⟩
  | initWaits _ _ regs | initStarts _ _ _ regs | initFails _ _ _ regs | captured _ regs | converted _ _ _ regs
  | encoded _ regs | drove _ _ _ _ _ _ regs | stalled _ _ _ _ regs | completed _ _ _ _ regs | advanced _ regs
  | paceOver _ _ regs | paceWaits _ _ regs | halted _ regs =>
    simp [regs, hc] at hd

/-- A step that raises FATAL is INIT on a failed verdict (rules R190, R191). -/
theorem initFailed_of_raises_fatal {s t : State} (h : step s = .next t) (hclear : s.core.regs.fatal = false)
    (hset : t.core.regs.fatal = true) :
    s.core.regs.phase = .init ∧ s.env.pins.busInitDone = true ∧ s.env.pins.busInitOk = false
      ∧ t.core.regs = { s.core.regs with fatal := true, faultCode := .initFailure, phase := .halt } := by
  cases hr : s.env.pins.rst with
  | true =>
    obtain ⟨-, hcore, -⟩ := step_reset h hr
    simp [hcore] at hset
  | false =>
    obtain ⟨-, did, -⟩ := step_did h hr
    rcases did.initFailed_or_fatal_eq with hfailed | hsame
    · exact hfailed
    · simp [hsame, hclear] at hset

/-- FATAL stays until reset (rule R29). -/
theorem fatal_stays {s t : State} (h : step s = .next t) (hset : s.core.regs.fatal = true)
    (hr : s.env.pins.rst = false) : t.core.regs.fatal = true := by
  obtain ⟨-, did, -⟩ := step_did h hr
  rcases did.initFailed_or_fatal_eq with ⟨-, -, -, hregs⟩ | hsame
  · rw [hregs]
  · rwa [hsame]

/-- A step that raises TXERR is TRANSMIT on a rejection (rules R190, R192). -/
theorem rejected_of_raises_txerr {s t : State} (h : step s = .next t) (hclear : s.core.regs.txerr = false)
    (hset : t.core.regs.txerr = true) :
    s.core.regs.phase = .transmit ∧ s.env.pins.busReject = true
      ∧ t.core.regs = { s.core.regs with txerr := true, phase := .advance } := by
  cases hr : s.env.pins.rst with
  | true =>
    obtain ⟨-, hcore, -⟩ := step_reset h hr
    simp [hcore] at hset
  | false =>
    obtain ⟨-, did, -⟩ := step_did h hr
    exact did.rejected_of_sets_txerr hset hclear

/-! ### The inputs a step polls -/

/-- The bus's answer matters on entry to TRANSMIT only (rules R42, R143). -/
theorem turnedAway_congr {e f : Env} {c : CoreState} (h : c.regs.txidx = 0 → busAccept e = busAccept f) :
    turnedAway e c = turnedAway f c := by
  by_cases hidx : c.regs.txidx = 0
  · simp only [turnedAway, h hidx]
  · simp [turnedAway, hidx]

/-- Of the environment a step of the transfer sees the cell pulse alone (rules R43, R145). -/
theorem transferStep_congr (build : Config) {e f : Env} (c : CoreState) (h : cellPulse e = cellPulse f) :
    transferStep build e c = transferStep build f c := by
  simp only [transferStep, h]

/-- An operation does the same to the core in two environments that agree on what it polls (rule R195). -/
theorem exec_operation_congr (build : Config) {c : CoreState} {e f : Env} (h : PolledAlike c e f) :
    coreOutcome (exec c.regs.phase.operation ⟨build, c, e⟩)
      = coreOutcome (exec c.regs.phase.operation ⟨build, c, f⟩) := by
  unfold PolledAlike at h
  cases hp : c.regs.phase <;> rw [hp] at h <;> simp only [Phase.operation, exec]
  case init => simp only [execInit, coreOutcome_run, h]
  case capture => simp only [execCapture, coreOutcome_run, h]
  case pace => simp only [execPace, coreOutcome_run, h]
  case transmit =>
    obtain ⟨haccept, hpulse⟩ := h
    simp only [execTransmit_eq, coreOutcome_run, turnedAway_congr haccept, transferStep_congr build c hpulse]
  case convert | encode | advance | halt => rfl

/-! ### Steps that wait -/

/-- The bus does not turn the transfer away: it has accepted it, or accepts it now (rules R42, R143). -/
theorem turnedAway_eq_false (e : Env) (c : CoreState) :
    turnedAway e c = false ↔ e.granted = true ∨ 0 < c.regs.txidx ∨ e.pins.busReject = false := by
  rw [← Bool.not_eq_true, turnedAway_iff]
  simp only [not_and_or, Bool.not_eq_false, Bool.not_eq_true, ← Nat.pos_iff_ne_zero, or_left_comm]

/-- INIT without a verdict takes a step that changes no register and no event (rules R41, R162). -/
theorem step_init_waits {s : State} (hb : buildRefusal s.build = none) (hr : s.env.pins.rst = false)
    (hp : s.core.regs.phase = .init) (hdone : s.env.pins.busInitDone = false) :
    ∃ t, step s = .next t ∧ t.core.regs = s.core.regs ∧ t.core.trace = s.core.trace := by
  have hcore : coreStep s.build s.env s.core = .next { strobesLow s.core with regs.phase := .init } := by
    rw [coreStep_eq s.core hb hr, hp]
    exact congrArg coreOutcome (execInit_of_pending (s := ⟨s.build, strobesLow s.core, s.env⟩) hdone)
  exact ⟨_, step_of_core hcore, regs_phase_self s.core.regs hp, rfl⟩

/-- The operations that wait are INIT, TRANSMIT and PACE, each for its own answer (rule R194). -/
theorem waiting_iff (s : State) : Waiting s ↔
    (s.core.regs.phase = .init ∧ s.env.pins.busInitDone = false)
      ∨ (s.core.regs.phase = .transmit
        ∧ (s.env.granted = true ∨ 0 < s.core.regs.txidx ∨ s.env.pins.busReject = false)
        ∧ s.core.regs.txidx < s.build.frameCells ∧ s.env.pins.cellEn = false)
      ∨ (s.core.regs.phase = .pace ∧ periodReached s.build s.env.pins.now s.core.regs.tstart = false) := by
  unfold Waiting
  cases s.core.regs.phase <;> simp [turnedAway_eq_false, cellPulse, clockRead]

/-! ### The step of a reset -/

/-- With reset asserted the step is the reset, whatever PHASE is (rules R196, R220). -/
theorem step_of_reset {s : State} (hb : buildRefusal s.build = none) (hr : s.env.pins.rst = true) :
    step s = .next { s with
      core := applyReset s.build s.env s.core, env := s.env.turn s.core.regs.phase .init } :=
  step_of_core (d := applyReset s.build s.env s.core) (by simp [coreStep, hb, hr])

/-- A reset that cuts no transfer leaves the trace empty (rules R45, R222). -/
theorem resetTrace_of_not_midTransfer {build : Config} {c : CoreState}
    (h : ¬ (c.regs.phase = .transmit ∧ 0 < c.regs.txidx ∧ c.regs.txidx < build.frameCells)) :
    resetTrace build c = [] := by
  rw [resetTrace, if_neg (mt (midTransfer_iff build c).mp h)]

end Sys2Proof.Machine

/-! ### The obligations -/

section
open Sys2Proof Sys2Proof.Machine

/-- Settles O29: the effect is that of `raise`, INIT raises it on a failed verdict, and what is left stands in the
inversion of a step and in the invariant read in HALT. -/
theorem initFailureHaltsTheCore : Obligations.InitFailureHaltsTheCore := by
  refine ⟨fun _ => rfl, fun _ => execInit_of_fail, fun s t h hclear hset => ?_, fun s t => fatal_stays,
    fun s hinv hfatal => ?_⟩
  · obtain ⟨hp, hdone, hfail, hregs⟩ := initFailed_of_raises_fatal h hclear hset
    exact ⟨hp, hdone, hfail, by rw [hregs]; rfl⟩
  · have ⟨_, ⟨hhalt, _⟩, _⟩ := hinv
    obtain ⟨-, -, hline, -, hframes⟩ := outputs_of_halt hinv (hhalt.mpr hfatal)
    exact ⟨hline, hframes⟩

/-- Settles O30: the effect is that of `raise`, TRANSMIT raises it on a rejection, and the inversion of a step shows that
nothing else does. -/
theorem transportErrorDropsTheFrame : Obligations.TransportErrorDropsTheFrame := by
  refine ⟨fun _ => rfl, fun _ => execTransmit_rejected, fun s t h hclear hset => ?_⟩
  obtain ⟨hp, hreject, hregs⟩ := rejected_of_raises_txerr h hclear hset
  exact ⟨hp, hreject, by rw [hregs], hregs⟩

/-- Settles O47: lowering the strobes changes nothing an operation polls by, and the operation does the same. -/
theorem unpolledInputsAreNotSeen : Obligations.UnpolledInputsAreNotSeen := by
  intro build c e f he hf halike
  cases hb : buildRefusal build with
  | some r => simp [coreStep, hb]
  | none =>
    rw [coreStep_eq c hb he, coreStep_eq c hb hf]
    exact exec_operation_congr (c := strobesLow c) build halike

/-- Settles O48: one step of each of the three operations that wait. -/
theorem waitingChangesNothing : Obligations.WaitingChangesNothing := by
  intro s hb hr hwait
  rcases (waiting_iff s).mp hwait with ⟨hp, hdone⟩ | ⟨hp, haccepted, hidx, hpulse⟩ | ⟨hp, hperiod⟩
  · exact ⟨by simp [Halted, hp], step_init_waits hb hr hp hdone⟩
  · obtain ⟨t, ht, hregs, htrace, -⟩ := step_stalls hb hr hp haccepted hidx hpulse
    exact ⟨by simp [Halted, hp], t, ht, hregs, htrace⟩
  · obtain ⟨t, ht, htrace, hstay, -⟩ := step_pace hb hr hp
    exact ⟨by simp [Halted, hp], t, ht, hstay hperiod, htrace⟩

/-- Settles O54: a reset completes, and so does every operation, TRANSMIT since the buffer holds its frame. -/
theorem everyStepCompletesFromTheInvariant : Obligations.EveryStepCompletesFromTheInvariant := by
  rintro s ⟨hb, -, ⟨hidx, -⟩, -, ⟨-, hframe⟩, -⟩
  cases hr : s.env.pins.rst with
  | true => exact ⟨_, step_of_reset hb hr⟩
  | false => exact step_completes hb hr fun hp => ⟨hidx, _, hframe hp⟩

/-- Settles O41: the values are those of the reset, and its trace records at most a transfer that it cut. -/
theorem resetInputWinsOverEveryOperation : Obligations.ResetInputWinsOverEveryOperation :=
  fun _ hb hr => ⟨_, step_of_reset hb hr, rfl, rfl, rfl, rfl, rfl, rfl, rfl, readCell_nil, rfl, rfl, rfl,
    resetTrace_of_not_midTransfer⟩

end
end

section
/-! PROOFS. A reset in the middle of a transfer: the frame buffer read as far as TXIDX gives the cells driven, and they are
the one event that the reset leaves (rule R222). -/

namespace Sys2Proof.Machine

/-- A shorter MemRead from the same cell gives the front of the longer one's list (rule R52). -/
theorem read_take {m : Memory} {i n k : Nat} {cells : List Bool} (h : m.read i n = some cells) (hk : k ≤ n) :
    m.read i k = some (cells.take k) := by
  obtain ⟨hlen, hcell⟩ := read_eq_some.mp h
  refine read_eq_some.mpr ⟨List.length_take_of_le (hlen ▸ hk), fun j hj => ?_⟩
  rw [hcell j (hj.trans_le hk), List.getElem?_take_of_lt hj]

/-- A reset that cuts the transfer of a frame leaves one FrameAborted with the cells driven (rule R222, log 8). -/
theorem resetTrace_of_midTransfer {build : Config} {c : CoreState} {cells : List Bool}
    (hmid : c.regs.phase = .transmit ∧ 0 < c.regs.txidx ∧ c.regs.txidx < build.frameCells)
    (hbuf : c.regs.framebuf.read 0 build.frameCells = some cells) :
    resetTrace build c = [.frameAborted (cells.take c.regs.txidx)] := by
  have ⟨_, _, hlt⟩ := hmid
  rw [resetTrace, if_pos ((midTransfer_iff build c).mpr hmid), read_take hbuf hlt.le]
  rfl

end Sys2Proof.Machine

/-! ### The obligation -/

section
open Sys2Proof Sys2Proof.Machine

/-- Settles O42: in TRANSMIT the buffer holds the frame of RGB, so what the reset records is its front up to TXIDX. -/
theorem resetMidTransferAbortsTheFrame : Obligations.ResetMidTransferAbortsTheFrame := by
  rintro s ⟨hb, -, -, -, ⟨-, hframe⟩, -⟩ hr hp hpos hlt
  exact ⟨_, step_of_reset hb hr, rfl, rfl, resetTrace_of_midTransfer ⟨hp, hpos, hlt⟩ (hframe hp)⟩

end
end
